-- ==== Sys2Proof/Word.lean ====
section
/-! DEFINITION. Words, bytes and messages: the value types of 00_scope.md R8 and R11. -/

namespace Sys2Proof

/-- A word: 32 bits, unsigned, bit 31 the most significant (R8). Its `+` is addition modulo 2^32 (R9), and
`&&&`, `|||`, `^^^`, `~~~` and `>>>` are R10's AND, OR, XOR, NOT and logical right shift. -/
abbrev Word := BitVec 32

/-- A byte: 8 bits, bit 7 the most significant (R8). -/
abbrev Byte := BitVec 8

/-- A byte sequence; index 0 first (R11). A message's length is `List.length`. -/
abbrev Message := List Byte

end Sys2Proof
end

