-- ==== Sys2Proof/Config.lean ====
section
/-! DEFINITION. The sizes the spec fixes (00_scope.md R5) and the parameter an implementation fixes (R6).
The spec leaves no value undefined after an instruction, so there is no free value here. -/

namespace Sys2Proof

/-- `LMAX`, the largest accepted message length in bytes: 2^61 - 1 (R5; 90_conflicts.md C1). -/
def lmax : Nat := 2 ^ 61 - 1

/-- What one implementation fixes. `msgCap` is `MSG_CAP`, 0 to LMAX (R6). It is carried by State as a parameter that nothing
writes, so that a statement about every state is one about every capacity. Log 2. -/
structure Config where
  msgCap : Fin (lmax + 1)
  deriving DecidableEq, Repr

/-- A conforming implementation: `MSG_CAP = LMAX` (R6). -/
def Config.conforming : Config := { msgCap := Fin.last lmax }

end Sys2Proof
end

