-- ==== Sys2Proof/Syntax.lean ====
section
/-! DEFINITION. The operations of the block: one constructor for each row of spec/opcode_table.json (00_scope.md R2). -/

namespace Sys2Proof

/-- The 5 host commands, the reserved verdict (30_encoding.md R55, R62) and the 6 core steps (R65). -/
inductive Instr where
  /-- NOP, cmd 0x00 (R122). -/
  | nop
  /-- RESET, cmd 0x01 (R123). -/
  | reset
  /-- START, cmd 0x02, with the message as payload (R56, R124). -/
  | start (msg : Message)
  /-- READ_STATUS, cmd 0x03 (R125). -/
  | readStatus
  /-- READ_DIGEST, cmd 0x04 (R126). -/
  | readDigest
  /-- A reserved command, cmd 0x05 to 0xFF (R127). -/
  | reserved (cmd : Byte)
  /-- PAD: pad the message and seed the digest state (R75). -/
  | pad
  /-- EXPAND: compute the schedule of block `blk` (R85). -/
  | expand
  /-- FINALIZE: end the computation (R113). -/
  | finalize
  /-- CINIT: load the working registers (R99). -/
  | cinit
  /-- ROUND: one compression round (R100). -/
  | round
  /-- CADD: fold the working registers into the digest state (R101). -/
  | cadd
  deriving DecidableEq, Repr

end Sys2Proof
end

