-- ==== Sys2Proof/WellFormed.lean ====
section
/-! DEFINITION. Which instructions are well formed, and which of them a host can send. -/

namespace Sys2Proof

/-- The reserved verdict carries a code of 0x05 to 0xFF (30_encoding.md R55, R62); every other operation has no operand to
check (a payload is any byte sequence, R56). -/
def Instr.wf : Instr → Bool
  | .reserved cmd => decide (5 ≤ cmd.toNat)
  | .nop | .reset | .start _ | .readStatus | .readDigest => true
  | .pad | .expand | .finalize | .cinit | .round | .cadd => true

/-- A host command, as against a step of the core's sequencer (44_host_interface.md R119). -/
def Instr.isHost : Instr → Bool
  | .nop | .reset | .start _ | .readStatus | .readDigest | .reserved _ => true
  | .pad | .expand | .finalize | .cinit | .round | .cadd => false

/-- The payload a command carries; only START has one (R54, R56). -/
def Instr.payload : Instr → Message
  | .start msg => msg
  | .nop | .reset | .readStatus | .readDigest | .reserved _ => []
  | .pad | .expand | .finalize | .cinit | .round | .cadd => []

end Sys2Proof
end

