-- ==== Sys2Proof/Decode.lean ====
section
/-! DEFINITION. The command decoder and the encoder (30_encoding.md R54 to R56, R62, R68). A command is presented on the port as its
command byte followed by its payload, all of which travel with it (R56). Core steps are not encoded in any word (R65). -/

namespace Sys2Proof

/-- Why bytes on the port are no command. Log 7. -/
inductive DecodeError where
  /-- No command byte at all. Raised by `decode`; safe. -/
  | noCommand
  /-- A payload with a command other than START, which alone carries one (R54). Raised by `decode`; safe. -/
  | unexpectedPayload (cmd : Byte)
  deriving DecidableEq, Repr

/-- The command a command byte without payload stands for; total (R55, R68). -/
def decodeCmd (cmd : Byte) : Instr :=
  if cmd = 0x00 then .nop
  else if cmd = 0x01 then .reset
  else if cmd = 0x02 then .start []
  else if cmd = 0x03 then .readStatus
  else if cmd = 0x04 then .readDigest
  else .reserved cmd

/-- Read one command from the port: the command byte, then the payload, whose length is carried with it (R56). -/
def decode : List Byte → Except DecodeError Instr
  | [] => .error .noCommand
  | [cmd] => .ok (decodeCmd cmd)
  | cmd :: b :: rest => if cmd = 0x02 then .ok (.start (b :: rest)) else .error (.unexpectedPayload cmd)

/-- The bytes a host sends for a command (R55, R56); a core step has none (R65). -/
def encode : Instr → Option (List Byte)
  | .nop => some [0x00]
  | .reset => some [0x01]
  | .start msg => some (0x02 :: msg)
  | .readStatus => some [0x03]
  | .readDigest => some [0x04]
  | .reserved cmd => some [cmd]
  | .pad | .expand | .finalize | .cinit | .round | .cadd => none

/-- The low `nbits` bits of `w`, as bytes with bits 7 to 0 first: the order in which the table numbers a command's bits. -/
def tableBytes (nbits w : Nat) : List Byte :=
  (List.range ((nbits + 7) / 8)).map fun i => BitVec.ofNat 8 (w / 2 ^ (8 * i))

/-- What the decoder reads from a table word: its first byte is the command, any further bytes the payload. -/
def decodeTableWord (nbits w : Nat) : Option Instr :=
  (decode (tableBytes nbits w)).toOption

end Sys2Proof
end

