-- ==== Sys2Proof/Machine/State.lean ====
section
/-! DEFINITION. The state of one instance of the block (10_state.md), its outcomes, and the state after reset. -/

namespace Sys2Proof.Machine

/-- `phase` (R16), with the reserved code 7 of 30_encoding.md R57, which no rule writes. -/
inductive Phase where
  | idle | start | padded | expand | compress | finalized | error | reserved
  deriving DecidableEq, Repr

/-- The working registers `a` to `h`, that is `reg[0]` to `reg[7]` (R25). -/
structure Working where
  a : Word
  b : Word
  c : Word
  d : Word
  e : Word
  f : Word
  g : Word
  h : Word
  deriving DecidableEq, Repr

/-- The addressable space `Mp` (20_memory.md R38): its bytes by address. An unlisted address is beyond `len(Mp)` and has no byte. -/
abbrev Memory := List Host.Cell

/-- A recorded model fault (60_exceptions.md R139), with the `info` its pseudocode gives. Recording one is a next state; safe. -/
inductive ModelFault where
  /-- F_START_BUSY(phase): START while a computation is under way (R124). -/
  | startBusy (phase : Phase)
  /-- F_DIGEST_NOT_READY(phase): READ_DIGEST outside FINALIZED (R126). -/
  | digestNotReady (phase : Phase)
  /-- F_RESERVED_CMD(cmd): a reserved command (R127). -/
  | reservedCmd (cmd : Byte)
  /-- F_NO_VALUE: a step or command reads a register that holds none (R15). -/
  | noValue
  /-- F_PHASE_RESERVED: the core finds phase code 7 (R57). -/
  | phaseReserved
  deriving DecidableEq, Repr

/-- What a command returns to the host (30_encoding.md R64). -/
inductive Response where
  | status (value : Byte)
  | digest (value : Vector Byte 32)
  deriving DecidableEq, Repr

/-- The `info` of an event that no register keeps: the length in `raise InputTooLarge(L)` (R135) and in
`refuse REF_CAPACITY(L)` (R142). -/
inductive Notice where
  | inputTooLarge (len : Nat)
  | refCapacity (len : Nat)
  deriving DecidableEq, Repr

/-- One event of a run (44_host_interface.md R119): the core's turn, or a command on the host's port as its bytes. -/
inductive Event where
  | core
  | host (bytes : List Byte)
  deriving DecidableEq, Repr

/-- What stops the machine. No state reachable from reset meets any of them. -/
inductive Fault where
  /-- A core step outside its guard ("when phase = …"), which the sequencer never selects: raised by the six core steps' meanings.
  Safe. Log 4. -/
  | stepNotEnabled
  /-- `blk > N` in PADDED or `t > 64` in COMPRESS, for which R65 selects no step: raised by the core's turn. Safe. Log 4. -/
  | sequencerStuck
  /-- A MemRead that is not within `Mp` (R12): raised by EXPAND. Safe. Log 5. -/
  | memRange
  /-- A message longer than LMAX in START, outside `pad`'s domain (R69): raised by PAD. Safe. Log 6. -/
  | padDomain
  deriving DecidableEq, Repr

/-- What the model gives no meaning to. -/
inductive Refusal where
  /-- An instruction with no meaning yet: raised by `exec`'s own arms. Safe. -/
  | notModelled (mnemonic : String)
  /-- Bytes on the command port that are no command: raised by the host's turn. Safe. Log 7. -/
  | undecodable (why : DecodeError)
  deriving DecidableEq, Repr

/-- One instance of the block. `none` is the spec's own value "holds no value" (R15). -/
structure State where
  /-- The sequencer's state register (R16). -/
  phase : Phase
  /-- `ERRCODE` (R28). -/
  errcode : BitVec 2
  /-- The raw message (R20). -/
  M : Option Message
  /-- The message buffer (R21). -/
  Mp : Option Memory
  /-- The block count (R22). -/
  N : Option (BitVec 56)
  /-- The block index (R18). -/
  blk : Option (BitVec 56)
  /-- The round counter (R19). -/
  t : Option (BitVec 7)
  /-- The digest state `H[0..7]` (R23). -/
  H : Option (Vector Word 8)
  /-- The message schedule `W[0..63]` (R24). -/
  W : Option (Vector Word 64)
  /-- The working registers `a` to `h` (R25). -/
  work : Option Working
  /-- The implementation's parameters, which nothing writes (R6). -/
  cfg : Config
  /-- The recorded model faults, a set (R30), listed once each in the order of `ModelFault.key`. -/
  faults : List ModelFault
  /-- The refusal mark (R30). -/
  refused : Bool
  /-- The model's own: the events still to come, oldest first. Log 1. -/
  events : List Event
  /-- The model's own: what the host has been given, oldest first. Log 3. -/
  responses : List Response
  /-- The model's own: the `info` of error and refusal events, oldest first. Log 3. -/
  notices : List Notice
  deriving DecidableEq, Repr

/-- Power-on reset (R36, R151), on a conforming implementation (R6), with nothing pending and nothing sent. -/
def State.reset : State where
  phase := .idle
  errcode := 0
  M := none
  Mp := none
  N := none
  blk := none
  t := none
  H := none
  W := none
  work := none
  cfg := Config.conforming
  faults := []
  refused := false
  events := []
  responses := []
  notices := []

end Sys2Proof.Machine
end

