-- ==== Sys2Proof/Machine/Flags.lean ====
section
/-! DEFINITION. Phase codes and the STATUS view (30_encoding.md R57 to R61). The block has no condition flags (10_state.md R35). -/

namespace Sys2Proof.Machine

/-- The 3-bit phase codes (R57). -/
def Phase.code : Phase → BitVec 3
  | .idle => 0
  | .start => 1
  | .padded => 2
  | .expand => 3
  | .compress => 4
  | .finalized => 5
  | .error => 6
  | .reserved => 7

/-- BUSY (R59). -/
def Phase.busy (p : Phase) : Bool := p = .start || p = .padded || p = .expand || p = .compress

/-- DONE (R60). -/
def Phase.done (p : Phase) : Bool := p = .finalized

/-- ERR (R61). -/
def Phase.err (p : Phase) : Bool := p = .error

/-- `STATUS = (ERRCODE << 6) OR (ERR << 5) OR (DONE << 4) OR (BUSY << 3) OR phase_code` (R58). -/
def statusOf (s : State) : Byte :=
  (s.errcode.setWidth 8 <<< 6) ||| ((BitVec.ofBool s.phase.err).setWidth 8 <<< 5)
    ||| ((BitVec.ofBool s.phase.done).setWidth 8 <<< 4) ||| ((BitVec.ofBool s.phase.busy).setWidth 8 <<< 3)
    ||| s.phase.code.setWidth 8

end Sys2Proof.Machine
end

