-- ==== Sys2Proof/Machine/Operands.lean ====
section
/-! DEFINITION. Operands: the packing functions (00_scope.md R11), the rotation (R10), the order of the register file `reg[0..7]`
(10_state.md R25), and START's operand forms in a host program (30_encoding.md R67). -/

namespace Sys2Proof.Machine

/-- `rotr(x, n)` for `0 < n < 32`: the bits that leave at the low end enter at the high end (R10). -/
def rotr (x : Word) (n : Nat) : Word := (x >>> n) ||| (x <<< (32 - n))

/-- `be32`: four bytes as one word, the first byte most significant (R11). -/
def be32 (b0 b1 b2 b3 : Byte) : Word := b0 ++ b1 ++ b2 ++ b3

/-- `bytes32`: a word as four bytes, most significant first (R11). -/
def bytes32 (w : Word) : Vector Byte 4 :=
  #v[w.extractLsb' 24 8, w.extractLsb' 16 8, w.extractLsb' 8 8, w.extractLsb' 0 8]

/-- Bits `lo + 7` down to `lo` of a number. -/
def byteOf (v lo : Nat) : Byte := BitVec.ofNat 8 (v / 2 ^ lo)

/-- `bytes64`: a 64-bit value as eight bytes, most significant first (R11). -/
def bytes64 (v : Nat) : List Byte :=
  [byteOf v 56, byteOf v 48, byteOf v 40, byteOf v 32, byteOf v 24, byteOf v 16, byteOf v 8, byteOf v 0]

/-- `reg[i] <- H[i]`: the registers `a` to `h` in the order of `H[0..7]` (R25). -/
def Working.ofState (h : Vector Word 8) : Working where
  a := h[0]
  b := h[1]
  c := h[2]
  d := h[3]
  e := h[4]
  f := h[5]
  g := h[6]
  h := h[7]

/-- `reg[0..7]` in the order `a` to `h` (R25). -/
def Working.toVector (r : Working) : Vector Word 8 := #v[r.a, r.b, r.c, r.d, r.e, r.f, r.g, r.h]

/-- START's operand in a host program (R67). -/
inductive StartOperand where
  /-- `"text"`: the ASCII bytes of the text, with no terminator. -/
  | text (chars : List Char)
  /-- `hex:HHHH…`: hexadecimal pairs, the high digit first. -/
  | hex (pairs : List (Fin 16 × Fin 16))
  /-- `rep(BYTE, COUNT)`: COUNT copies of BYTE. -/
  | rep (byte : Byte) (count : Nat)
  deriving DecidableEq, Repr

/-- The message an operand denotes (R67). -/
def StartOperand.message : StartOperand → Message
  | .text chars => chars.map fun ch => BitVec.ofNat 8 ch.toNat
  | .hex pairs => pairs.map fun p => BitVec.ofNat 8 (16 * p.1.val + p.2.val)
  | .rep byte count => List.replicate count byte

end Sys2Proof.Machine
end

