-- ==== Sys2Proof/Machine/Ops.lean ====
section
/-! DEFINITION. The named operations over memory and registers: reading `Mp`, reading a register that may hold none, recording a
model fault, discarding the data registers, the entry into the architectural error, and the ways out of it. -/

namespace Sys2Proof.Machine

/-! ### Memory -/

/-- The canonical form: addresses strictly rising. (An unlisted address has no byte, so no entry can equal one.) -/
abbrev Memory.wf (m : Memory) : Prop := m.Pairwise fun x y => x.1 < y.1

/-- Lay bytes out from an address upwards. -/
def Memory.layout : Nat → List Byte → Memory
  | _, [] => []
  | a, b :: bs => (a, b) :: Memory.layout (a + 1) bs

/-- A byte sequence as an addressed space: `Mp[0]` at address 0 (20_memory.md R38). -/
def Memory.ofBytes (bs : List Byte) : Memory := Memory.layout 0 bs

/-- The byte at an address, if the address exists. -/
def Memory.read : Memory → Nat → Option Byte
  | [], _ => none
  | (k, b) :: m, a => if k = a then some b else Memory.read m a

/-- `MemRead(addr, n)`: the `n` bytes from `addr`, defined only where all of them exist (00_scope.md R12). -/
def Memory.readBytes (m : Memory) (addr : Nat) : (n : Nat) → Option (Vector Byte n)
  | 0 => some #v[]
  | n + 1 =>
    match Memory.readBytes m addr n, Memory.read m (addr + n) with
    | some v, some b => some (v.push b)
    | _, _ => none

/-- The byte of `Mp` at an address, where `Mp` holds a value and the address exists. -/
def State.readMp (s : State) (a : Nat) : Option Byte := s.Mp.bind fun m => m.read a

/-! ### Model faults (60_exceptions.md R139 to R141) -/

/-- A number for each fault, by which the set `faults` is kept in order. -/
def ModelFault.key : ModelFault → Nat
  | .startBusy p => p.code.toNat
  | .digestNotReady p => 8 + p.code.toNat
  | .reservedCmd c => 16 + c.toNat
  | .noValue => 272
  | .phaseReserved => 273

/-- Put a fault into the set: in order, and once. -/
def insertFault (f : ModelFault) : List ModelFault → List ModelFault
  | [] => [f]
  | g :: gs => if f.key < g.key then f :: g :: gs else if f = g then g :: gs else g :: insertFault f gs

/-- `fault F(info)`: recorded, with no other change of state (R139 to R141). -/
def State.record (s : State) (f : ModelFault) : State := { s with faults := insertFault f s.faults }

/-- Read a register that may hold none, and go on with its value; none is F_NO_VALUE and no other change (10_state.md R15, R139). -/
def reading {α : Type} (r : Option α) (s : State) (k : α → Host.Outcome State Fault Refusal) :
    Host.Outcome State Fault Refusal :=
  match r with
  | some v => k v
  | none => .next (s.record .noValue)

/-- A core step's guard (00_scope.md R13's "when"): outside it the step is not enabled and cannot be taken. -/
def guarded (enabled : Bool) (k : Host.Outcome State Fault Refusal) : Host.Outcome State Fault Refusal :=
  if enabled then k else .fault .stepNotEnabled

/-! ### Responses -/

/-- `respond r`: the host is given `r`; nothing else changes. -/
def State.respond (s : State) (r : Response) : State := { s with responses := s.responses ++ [r] }

/-! ### The error and the ways out of it -/

/-- Every data register `<- none` (44_host_interface.md R123, R124). -/
def State.discardAll (s : State) : State :=
  { s with M := none, Mp := none, N := none, blk := none, t := none, H := none, W := none, work := none }

/-- `raise InputTooLarge(L)`: the whole entry of the block's one architectural error (60_exceptions.md R135, R144). It saves nothing
and vectors nowhere; the event carries the length. -/
def State.raiseInputTooLarge (s : State) (len : Nat) : State :=
  { s.discardAll with errcode := 1, phase := .error, notices := s.notices ++ [.inputTooLarge len] }

/-- `refuse REF_CAPACITY(L)`: the mark, and no hardware state (60_exceptions.md R142). -/
def State.refuseCapacity (s : State) (len : Nat) : State :=
  { s with refused := true, notices := s.notices ++ [.refCapacity len] }

/-- RESET's effect, from any phase: one way out of ERROR (R123, R137). -/
def State.toIdle (s : State) : State := { s.discardAll with errcode := 0, phase := .idle }

/-- An accepted START's effect: the message is captured and a computation begins; the other way out of ERROR (R124, R137). -/
def State.accept (s : State) (msg : Message) : State :=
  { s.discardAll with M := some msg, errcode := 0, phase := .start }

end Sys2Proof.Machine
end

