-- ==== Sys2Proof/Machine/Compressor.lean ====
section
/-! DEFINITION. The compression engine (42_compressor.md): the round functions, one round, one block, and the steps CINIT, ROUND and
CADD. -/

namespace Sys2Proof.Machine

/-- Big sigma 0 (R91). -/
def bigSigma0 (a : Word) : Word := rotr a 2 ^^^ rotr a 13 ^^^ rotr a 22

/-- Big sigma 1 (R92). -/
def bigSigma1 (e : Word) : Word := rotr e 6 ^^^ rotr e 11 ^^^ rotr e 25

/-- Choice (R93). -/
def choice (e f g : Word) : Word := (e &&& f) ^^^ (~~~e &&& g)

/-- Majority (R94). -/
def majority (a b c : Word) : Word := (a &&& b) ^^^ (a &&& c) ^^^ (b &&& c)

/-- `T1` of a round with constant `k` and schedule word `w` (R97). -/
def roundT1 (k w : Word) (r : Working) : Word := r.h + bigSigma1 r.e + choice r.e r.f r.g + k + w

/-- `T2` of a round (R97). -/
def roundT2 (r : Working) : Word := bigSigma0 r.a + majority r.a r.b r.c

/-- One round, a simultaneous update (R97). -/
def roundStep (k w : Word) (r : Working) : Working where
  a := roundT1 k w r + roundT2 r
  b := r.a
  c := r.b
  d := r.c
  e := r.d + roundT1 k w r
  f := r.e
  g := r.f
  h := r.g

/-- The working registers after rounds 0 to `n - 1` of a block (R98). -/
def roundsUpTo (w : Vector Word 64) (r : Working) : (n : Nat) → n ≤ 64 → Working
  | 0, _ => r
  | n + 1, _ => roundStep kRom[n] w[n] (roundsUpTo w r n (by omega))

/-- `H[i] + reg[i]`, each modulo 2^32 (R98, R101). -/
def addBack (h : Vector Word 8) (r : Working) : Vector Word 8 := Vector.zipWith (· + ·) h r.toVector

/-- `compress(H, W)` (R98). -/
@[irreducible] def compressBlock (h : Vector Word 8) (w : Vector Word 64) : Vector Word 8 :=
  addBack h (roundsUpTo w (Working.ofState h) 64 (Nat.le_refl 64))

/-- CINIT (R99). -/
def execCinit (s : State) : Host.Outcome State Fault Refusal :=
  guarded (s.phase = .expand) <|
    reading s.H s fun h =>
      .next { s with work := some (Working.ofState h), t := some 0, phase := .compress }

/-- ROUND (R100). It reads the index only below 64, so no index is out of range. -/
def execRound (s : State) : Host.Outcome State Fault Refusal :=
  guarded (s.phase = .compress) <|
    reading s.t s fun t =>
      if ht : t.toNat < 64 then
        reading s.work s fun r =>
          reading s.W s fun w =>
            .next { s with work := some (roundStep kRom[t.toNat] w[t.toNat] r), t := some (t + 1) }
      else .fault .stepNotEnabled

/-- CADD (R101). -/
def execCadd (s : State) : Host.Outcome State Fault Refusal :=
  guarded (s.phase = .compress) <|
    reading s.t s fun t =>
      guarded (t = 64) <|
        reading s.work s fun r =>
          reading s.H s fun h =>
            reading s.blk s fun blk =>
              .next { s with
                H := some (addBack h r)
                blk := some (blk + 1)
                W := none
                work := none
                t := none
                phase := .padded }

end Sys2Proof.Machine
end

