-- ==== Sys2Proof/Machine/Expander.lean ====
section
/-! DEFINITION. The message-schedule expander (41_schedule.md): its functions and the EXPAND step. -/

namespace Sys2Proof.Machine

/-- Small sigma 0; its last term is a shift (R82). -/
def smallSigma0 (x : Word) : Word := rotr x 7 ^^^ rotr x 18 ^^^ (x >>> 3)

/-- Small sigma 1; its last term is a shift (R83). -/
def smallSigma1 (x : Word) : Word := rotr x 17 ^^^ rotr x 19 ^^^ (x >>> 10)

/-- The message words `W[0..15]`: the block's bytes in fours, big-endian (R81). -/
def messageWords (block : Vector Byte 64) : Vector Word 16 :=
  Vector.ofFn fun j : Fin 16 => be32 block[4 * j.val] block[4 * j.val + 1] block[4 * j.val + 2] block[4 * j.val + 3]

/-- The schedule after `k` words beyond the first 16. With `t = 16 + k`, the word added is
`W[t-16] + σ0(W[t-15]) + W[t-7] + σ1(W[t-2])` (R84). -/
def extendWords (w : Vector Word 16) : (k : Nat) → Vector Word (16 + k)
  | 0 => w
  | k + 1 =>
    let v := extendWords w k
    v.push (v[k] + smallSigma0 v[k + 1] + v[k + 9] + smallSigma1 v[k + 14])

/-- `expand(B)`: the schedule of one block (R84). -/
@[irreducible] def expandBlock (block : Vector Byte 64) : Vector Word 64 := extendWords (messageWords block) 48

/-- An on-the-fly expander (R87): a 16-word window that yields its oldest word each round and takes in the next. It is no part of
EXPAND; R87 makes its agreement with `expandBlock` a proof obligation. -/
def windowAt (block : Vector Byte 64) : Nat → Vector Word 16
  | 0 => messageWords block
  | t + 1 =>
    let w := windowAt block t
    (w.eraseIdx 0).push (w[0] + smallSigma0 w[1] + w[9] + smallSigma1 w[14])

/-- EXPAND (R85). -/
def execExpand (s : State) : Host.Outcome State Fault Refusal :=
  guarded (s.phase = .padded) <|
    reading s.blk s fun blk =>
      reading s.N s fun n =>
        guarded (blk < n) <|
          reading s.Mp s fun mp =>
            match mp.readBytes (64 * blk.toNat) 64 with
            | some block => .next { s with W := some (expandBlock block), phase := .expand }
            | none => .fault .memRange

end Sys2Proof.Machine
end

