-- ==== Sys2Proof/Machine/Preprocessor.lean ====
section
/-! DEFINITION. The preprocessor (40_preprocessor.md): the padding function and the PAD step. -/

namespace Sys2Proof.Machine

/-- `k = (55 - L) mod 64`, in the range 0 to 63 (R71). -/
def zeroCount (len : Nat) : Nat := (119 - len % 64) % 64

/-- `pad(M) = M || 0x80 || zeros(k) || bytes64(8 L)` (R72); the bit length is exact (R70). -/
def padMessage (msg : Message) : List Byte :=
  msg ++ [0x80] ++ List.replicate (zeroCount msg.length) 0x00 ++ bytes64 (8 * msg.length)

/-- The block count `N = len(Mp) / 64` (R73). -/
def blockCount (msg : Message) : Nat := (padMessage msg).length / 64

/-- PAD (R75). `pad`'s domain is the messages of at most LMAX bytes (R69), and START lets no other pass. -/
def execPad (s : State) : Host.Outcome State Fault Refusal :=
  guarded (s.phase = .start) <|
    reading s.M s fun msg =>
      if msg.length ≤ lmax then
        .next { s with
          Mp := some (Memory.ofBytes (padMessage msg))
          N := some (BitVec.ofNat 56 (blockCount msg))
          blk := some 0
          H := some ivRom
          phase := .padded }
      else .fault .padDomain

end Sys2Proof.Machine
end

