-- ==== Sys2Proof/Machine/Accumulator.lean ====
section
/-! DEFINITION. The digest accumulator (43_accumulator.md): the FINALIZE step, the digest bytes, and the hash function. -/

namespace Sys2Proof.Machine

/-- FINALIZE (R113): `H` keeps its value. -/
def execFinalize (s : State) : Host.Outcome State Fault Refusal :=
  guarded (s.phase = .padded) <|
    reading s.blk s fun blk =>
      reading s.N s fun n =>
        guarded (blk = n) <|
          .next { s with M := none, Mp := none, N := none, blk := none, phase := .finalized }

/-- The 32 digest bytes `bytes32(H[0]) || … || bytes32(H[7])`: byte `4 i + k` is byte `k` of `bytes32(H[i])` (R116; 20_memory.md
R42). -/
def digestBytes (h : Vector Word 8) : Vector Byte 32 :=
  Vector.ofFn fun j : Fin 32 => (bytes32 h[j.val / 4])[j.val % 4]

/-- Block `i` of the padded message: its 64 bytes from address `64 i` (20_memory.md R39); none past the last block. -/
@[irreducible] def blockAt (msg : Message) (i : Nat) : Option (Vector Byte 64) :=
  (Memory.ofBytes (padMessage msg)).readBytes (64 * i) 64

/-- The digest state after the first `n` blocks, from IV (R115). Past the last block it no longer changes. -/
def stateAfter (msg : Message) : Nat → Vector Word 8
  | 0 => ivRom
  | n + 1 =>
    match blockAt msg n with
    | some block => compressBlock (stateAfter msg n) (expandBlock block)
    | none => stateAfter msg n

/-- `SHA256(M)` (R115), for messages of at most LMAX bytes; for longer ones it is not defined. -/
def sha256 (msg : Message) : Option (Vector Byte 32) :=
  if msg.length ≤ lmax then some (digestBytes (stateAfter msg (blockCount msg))) else none

end Sys2Proof.Machine
end

