-- ==== Sys2Proof/Machine/HostCommands.lean ====
section
/-! DEFINITION. The host commands (44_host_interface.md R122 to R127). -/

namespace Sys2Proof.Machine

/-- NOP (R122). -/
def execNop (s : State) : Host.Outcome State Fault Refusal := .next s

/-- RESET, in every phase (R123). -/
def execReset (s : State) : Host.Outcome State Fault Refusal := .next s.toIdle

/-- START, with its checks in R124's order (R138). -/
def execStart (msg : Message) (s : State) : Host.Outcome State Fault Refusal :=
  if s.phase.busy then .next (s.record (.startBusy s.phase))
  else if msg.length > lmax then .next (s.raiseInputTooLarge msg.length)
  else if msg.length > s.cfg.msgCap.val then .next (s.refuseCapacity msg.length)
  else .next (s.accept msg)

/-- READ_STATUS, in every phase (R125). -/
def execReadStatus (s : State) : Host.Outcome State Fault Refusal := .next (s.respond (.status (statusOf s)))

/-- READ_DIGEST (R126): the digest in FINALIZED, and only there (43_accumulator.md R114). -/
def execReadDigest (s : State) : Host.Outcome State Fault Refusal :=
  if s.phase = .finalized then reading s.H s fun h => .next (s.respond (.digest (digestBytes h)))
  else .next (s.record (.digestNotReady s.phase))

/-- A reserved command (R127): its whole effect is the recorded fault. -/
def execReserved (cmd : Byte) (s : State) : Host.Outcome State Fault Refusal := .next (s.record (.reservedCmd cmd))

end Sys2Proof.Machine
end

