-- ==== Sys2Proof/Machine/Dispatch.lean ====
section
/-! DEFINITION. One meaning for each operation. -/

namespace Sys2Proof.Machine

def exec (i : Instr) (s : State) : Host.Outcome State Fault Refusal :=
  match i with
  | .nop => Sys2Proof.Machine.execNop s
  | .reset => Sys2Proof.Machine.execReset s
  | .start msg => Sys2Proof.Machine.execStart msg s
  | .readStatus => Sys2Proof.Machine.execReadStatus s
  | .readDigest => Sys2Proof.Machine.execReadDigest s
  | .reserved cmd => Sys2Proof.Machine.execReserved cmd s
  | .pad => Sys2Proof.Machine.execPad s
  | .expand => Sys2Proof.Machine.execExpand s
  | .finalize => Sys2Proof.Machine.execFinalize s
  | .cinit => Sys2Proof.Machine.execCinit s
  | .round => Sys2Proof.Machine.execRound s
  | .cadd => Sys2Proof.Machine.execCadd s

end Sys2Proof.Machine
end

