-- ==== Sys2Proof/Machine/Sequencer.lean ====
section
/-! DEFINITION. The two agents' turns (44_host_interface.md R119 to R121): the core's step selection (30_encoding.md R65), the host's
command port, and which event comes next. -/

namespace Sys2Proof.Machine

/-- What R65's micro-operation map selects. -/
inductive Selection where
  /-- An enabled core step. -/
  | step (i : Instr)
  /-- No step: the core waits (IDLE, FINALIZED, ERROR). -/
  | wait
  /-- A counter it must read holds none (10_state.md R15). -/
  | noValue
  /-- Phase code 7 (R57). -/
  | reservedPhase
  /-- Counters for which the map has no row. Log 4. -/
  | stuck
  deriving DecidableEq, Repr

/-- The micro-operation map (R65, R120). -/
def selectStep (s : State) : Selection :=
  match s.phase with
  | .idle | .finalized | .error => .wait
  | .start => .step .pad
  | .padded =>
    match s.blk, s.N with
    | some blk, some n => if blk < n then .step .expand else if blk = n then .step .finalize else .stuck
    | _, _ => .noValue
  | .expand => .step .cinit
  | .compress =>
    match s.t with
    | some t => if t < 64 then .step .round else if t = 64 then .step .cadd else .stuck
    | none => .noValue
  | .reserved => .reservedPhase

/-- The core's turn: the selected step, or waiting, or the recorded fault (R120, R139). -/
def coreTurn (s : State) : Host.Outcome State Fault Refusal :=
  match selectStep s with
  | .step i => exec i s
  | .wait => .next s
  | .noValue => .next (s.record .noValue)
  | .reservedPhase => .next (s.record .phaseReserved)
  | .stuck => .fault .sequencerStuck

/-- The host's turn: one command from the port, decoded and carried out (30_encoding.md R68). -/
def hostTurn (bytes : List Byte) (s : State) : Host.Outcome State Fault Refusal :=
  match decode bytes with
  | .ok i => exec i s
  | .error why => .refused (.undecodable why)

/-- The next event: the oldest one listed, or the core's turn where the host is silent (R121, R129). Log 1. -/
def nextEvent (s : State) : Host.Outcome State Fault Refusal :=
  match s.events with
  | [] => coreTurn s
  | .core :: rest => coreTurn { s with events := rest }
  | .host bytes :: rest => hostTurn bytes { s with events := rest }

/-- Present a command on the port as the next event. -/
def State.present (s : State) (bytes : List Byte) : State := { s with events := .host bytes :: s.events }

end Sys2Proof.Machine
end

