-- ==== Sys2Proof/Machine/Step.lean ====
section
/-! DEFINITION. One step of the machine: one atomic event (20_memory.md R46, R49). -/

namespace Sys2Proof.Machine

/-- One event. -/
def step (s : State) : Host.Outcome State Fault Refusal := nextEvent s

/-- The table word's bytes, presented as the next command: what `step` runs next. Log 1. -/
def State.withFetchWord (s : State) (nbits w : Nat) : State := s.present (tableBytes nbits w)

end Sys2Proof.Machine
end

