-- ==== Sys2Proof/Machine/HostProgram.lean ====
section
/-! DEFINITION. The host's side of the protocol: host-program lines and the two pseudo-instructions (30_encoding.md R67, 44_host_interface.md
R128). It is the host's behaviour, not the block's. Log 9. -/

namespace Sys2Proof.Machine

/-- One line of a host program (R67). -/
inductive HostLine where
  | nop
  | reset
  | start (operand : StartOperand)
  | readStatus
  | readDigest
  | wait
  | hash (operand : StartOperand)
  deriving DecidableEq, Repr

/-- What a host has yet to do. -/
inductive HostAction where
  /-- Send one command. -/
  | send (bytes : List Byte)
  /-- Send the first READ_STATUS of a WAIT. -/
  | poll
  /-- Send READ_STATUS again for as long as the last STATUS has BUSY = 1. -/
  | repoll
  /-- Send READ_DIGEST if the last STATUS has DONE = 1, or report the input-validation failure if it has ERR = 1. -/
  | collect
  deriving DecidableEq, Repr

/-- What a line expands to: WAIT is a loop in the host; HASH is START, WAIT and then READ_DIGEST if done, or the report of the
failure (R67, R128). -/
def HostLine.actions : HostLine → List HostAction
  | .nop => [.send [0x00]]
  | .reset => [.send [0x01]]
  | .start op => [.send (0x02 :: op.message)]
  | .readStatus => [.send [0x03]]
  | .readDigest => [.send [0x04]]
  | .wait => [.poll, .repoll]
  | .hash op => [.send (0x02 :: op.message), .poll, .repoll, .collect]

/-- BUSY as the host reads it in a STATUS value (R58). -/
def statusBusy (status : Byte) : Bool := status.getLsbD 3

/-- DONE in a STATUS value (R58). -/
def statusDone (status : Byte) : Bool := status.getLsbD 4

/-- ERR in a STATUS value (R58). -/
def statusErr (status : Byte) : Bool := status.getLsbD 5

/-- What a host reports to its own caller. -/
inductive HostReport where
  /-- The input-validation failure of R128. -/
  | inputValidationFailure
  deriving DecidableEq, Repr

/-- What a host does next, with what it has to do after it. -/
inductive HostMove where
  /-- Send a command. -/
  | send (bytes : List Byte) (rest : List HostAction)
  /-- Report to its caller; no command is sent. -/
  | report (what : HostReport) (rest : List HostAction)
  /-- Nothing is left to do. -/
  | finished
  deriving DecidableEq, Repr

/-- The next move of a host whose last STATUS was `status` (R67, R128). -/
def hostNext (status : Byte) : List HostAction → HostMove
  | [] => .finished
  | .send bytes :: rest => .send bytes rest
  | .poll :: rest => .send [0x03] rest
  | .repoll :: rest => if statusBusy status then .send [0x03] (.repoll :: rest) else hostNext status rest
  | .collect :: rest =>
    if statusDone status then .send [0x04] rest
    else if statusErr status then .report .inputValidationFailure rest
    else hostNext status rest

/-- The last STATUS the host has been given; before any, 0x00. -/
def lastStatus (responses : List Response) : Byte :=
  responses.foldl (fun last r => match r with | .status v => v | .digest _ => last) 0x00

/-- A host in its program: what it has yet to do, and what it has reported, oldest first. -/
structure HostRun where
  todo : List HostAction
  reports : List HostReport
  deriving DecidableEq, Repr

/-- A host at the beginning of a list of lines. -/
def HostRun.ofLines (lines : List HostLine) : HostRun := { todo := lines.flatMap HostLine.actions, reports := [] }

/-- The host takes a turn in its program: it presents its next command on the port, or reports. -/
def hostDrive (s : State) (h : HostRun) : State × HostRun :=
  match hostNext (lastStatus s.responses) h.todo with
  | .send bytes rest => (s.present bytes, { h with todo := rest })
  | .report what rest => (s, { todo := rest, reports := h.reports ++ [what] })
  | .finished => (s, { h with todo := [] })

/-- Whose turn it is where a host program and the core interleave (R121). -/
inductive Turn where
  | core
  | host
  deriving DecidableEq, Repr

/-- The host takes its turn, and the command it presents, if any, is carried out; a report or a finished host changes nothing in the block. -/
def hostMove (s : State) (h : HostRun) : Host.Outcome (State × HostRun) Fault Refusal :=
  match hostNext (lastStatus s.responses) h.todo with
  | .send _ _ =>
    match Sys2Proof.Machine.step (hostDrive s h).1 with
    | .next u => .next (u, (hostDrive s h).2)
    | .fault f => .fault f
    | .refused r => .refused r
  | .report _ _ | .finished => .next (hostDrive s h)

/-- A run of a host program beside the core, in a given order of turns (R121, R128). -/
def hostRun : List Turn → State → HostRun → Host.Outcome (State × HostRun) Fault Refusal
  | [], s, h => .next (s, h)
  | .core :: turns, s, h =>
    match coreTurn s with
    | .next u => hostRun turns u h
    | .fault f => .fault f
    | .refused r => .refused r
  | .host :: turns, s, h =>
    match hostMove s h with
    | .next (u, h') => hostRun turns u h'
    | .fault f => .fault f
    | .refused r => .refused r

end Sys2Proof.Machine
end

