-- ==== Sys2Proof/Machine/HostSyntax.lean ====
section
/-! DEFINITION. The text of a host program (30_encoding.md R67; 92_eei_decisions.md D30): how lines are read, and the display form in which
a digest is written. It is notation for the host; the block never sees it. R67 leaves the lexical detail open: log 10. -/

namespace Sys2Proof.Machine

/-- The double quote that encloses a text operand. -/
def quoteChar : Char := Char.ofNat 34

/-- A blank within a line. -/
def isBlank (c : Char) : Bool := c = ' ' || c = '\t' || c = '\r'

/-- A character of a label or a mnemonic. -/
def isNameChar (c : Char) : Bool := c.isAlphanum || c = '_'

/-- Drop blanks at both ends. -/
def trimBlanks (cs : List Char) : List Char := ((cs.dropWhile isBlank).reverse.dropWhile isBlank).reverse

/-- Drop a comment: from a `;` outside a text operand to the end of the line. -/
def dropComment (quoted : Bool) : List Char → List Char
  | [] => []
  | c :: cs => if c = ';' && !quoted then [] else c :: dropComment (if c = quoteChar then !quoted else quoted) cs

/-- Drop a label: a name directly followed by `:`, at the start of the line. -/
def dropLabel (cs : List Char) : List Char :=
  match cs.takeWhile isNameChar, cs.dropWhile isNameChar with
  | _ :: _, ':' :: rest => trimBlanks rest
  | _, _ => cs

/-- What follows a given beginning, where the text begins so. -/
def afterPrefix : List Char → List Char → Option (List Char)
  | [], cs => some cs
  | p :: ps, c :: cs => if c = p then afterPrefix ps cs else none
  | _ :: _, [] => none

/-- A hexadecimal digit, of either case. -/
def hexDigit (c : Char) : Option (Fin 16) :=
  if h : 48 ≤ c.toNat ∧ c.toNat ≤ 57 then some ⟨c.toNat - 48, by omega⟩
  else if h : 65 ≤ c.toNat ∧ c.toNat ≤ 70 then some ⟨c.toNat - 55, by omega⟩
  else if h : 97 ≤ c.toNat ∧ c.toNat ≤ 102 then some ⟨c.toNat - 87, by omega⟩
  else none

/-- Hexadecimal pairs, the high digit first. -/
def hexPairs : List Char → Option (List (Fin 16 × Fin 16))
  | [] => some []
  | [_] => none
  | a :: b :: cs =>
    match hexDigit a, hexDigit b, hexPairs cs with
    | some x, some y, some rest => some ((x, y) :: rest)
    | _, _, _ => none

/-- Digits in a base of at most 16, most significant first. -/
def digitsFrom (base acc : Nat) : List Char → Option Nat
  | [] => some acc
  | c :: cs =>
    match hexDigit c with
    | some d => if d.val < base then digitsFrom base (base * acc + d.val) cs else none
    | none => none

/-- A decimal number, or a hexadecimal one after `0x`. -/
def numeral (cs : List Char) : Option Nat :=
  match afterPrefix "0x".toList cs with
  | some [] => none
  | some hex => digitsFrom 16 0 hex
  | none => if cs = [] then none else digitsFrom 10 0 cs

/-- A number as `rep` takes it: a numeral, or one numeral to the power of another, as in `2^61`. -/
def number (cs : List Char) : Option Nat :=
  match cs.dropWhile (· ≠ '^') with
  | _ :: exponent =>
    match numeral (trimBlanks (cs.takeWhile (· ≠ '^'))), numeral (trimBlanks exponent) with
    | some b, some e => some (b ^ e)
    | _, _ => none
  | [] => numeral (trimBlanks cs)

/-- `"text"`, from its opening quote on: ASCII characters other than the quote. -/
def textOperand (cs : List Char) : Option StartOperand :=
  match cs.reverse with
  | q :: body =>
    if q = quoteChar && body.all (fun c => c ≠ quoteChar && c.toNat < 128) then some (.text body.reverse) else none
  | [] => none

/-- `rep(BYTE, COUNT)`, from after its opening parenthesis. -/
def repOperand (cs : List Char) : Option StartOperand :=
  match (cs.takeWhile (· ≠ ',')), (cs.dropWhile (· ≠ ',')).reverse with
  | byte, ')' :: count =>
    match number byte, number (count.reverse.drop 1) with
    | some b, some n => if b < 256 then some (.rep (BitVec.ofNat 8 b) n) else none
    | _, _ => none
  | _, _ => none

/-- One of START's three operand forms (R67). -/
def startOperand (cs : List Char) : Option StartOperand :=
  match afterPrefix [quoteChar] cs, afterPrefix "hex:".toList cs, afterPrefix "rep(".toList cs with
  | some text, _, _ => textOperand text
  | _, some hex, _ => (hexPairs hex).map .hex
  | _, _, some rep => repOperand rep
  | _, _, _ => none

/-- A line's mnemonic with its operand (R67, R55). -/
def hostCommand (mnemonic operand : List Char) : Option HostLine :=
  if mnemonic = "START".toList then (startOperand operand).map .start
  else if mnemonic = "HASH".toList then (startOperand operand).map .hash
  else if operand ≠ [] then none
  else if mnemonic = "NOP".toList then some .nop
  else if mnemonic = "RESET".toList then some .reset
  else if mnemonic = "READ_STATUS".toList then some .readStatus
  else if mnemonic = "READ_DIGEST".toList then some .readDigest
  else if mnemonic = "WAIT".toList then some .wait
  else none

/-- What a line says. -/
inductive LineReading where
  /-- Nothing: it is blank, or holds a comment or a label alone. -/
  | empty
  | line (l : HostLine)
  /-- It is no line of R67's syntax. -/
  | illFormed
  deriving DecidableEq, Repr

/-- Read one line of a host program. -/
def readLine (cs : List Char) : LineReading :=
  let body := dropLabel (trimBlanks (dropComment false cs))
  if body = [] then .empty
  else
    match hostCommand (body.takeWhile isNameChar) (trimBlanks (body.dropWhile isNameChar)) with
    | some l => .line l
    | none => .illFormed

/-- Read the lines of a host program; none where one is ill-formed. -/
def readProgram : List (List Char) → Option (List HostLine)
  | [] => some []
  | cs :: rest =>
    match readLine cs, readProgram rest with
    | .empty, some ls => some ls
    | .line l, some ls => some (l :: ls)
    | _, _ => none

/-- An uppercase hexadecimal digit. -/
def hexChar (d : Nat) : Char := if d < 10 then Char.ofNat (48 + d) else Char.ofNat (55 + d)

/-- A byte as two uppercase hexadecimal digits. -/
def hexByte (b : Byte) : List Char := [hexChar (b.toNat / 16), hexChar (b.toNat % 16)]

/-- The display form of a digest: 8 groups of 8 uppercase hexadecimal digits, one group per word (R67). -/
def displayDigest (d : Vector Byte 32) : List Char :=
  [' '].intercalate ((List.range 8).map fun i =>
    ((d.toList.drop (4 * i)).take 4).flatMap hexByte)

end Sys2Proof.Machine
end

