-- ==== Sys2Proof/Machine/System.lean ====
section
/-! DEFINITION. Several independent instances (00_scope.md R7; 10_state.md R37; 44_host_interface.md R132). Log 8. -/

namespace Sys2Proof.Machine

/-- `NINST` instances; the ROMs they share are constants (R7). -/
structure System where
  insts : List State
  deriving DecidableEq, Repr

/-- `NINST` is at least 1 (R7). -/
abbrev System.wf (sys : System) : Prop := 1 ≤ sys.insts.length

/-- Each instance starts in IDLE at reset (60_exceptions.md R149). -/
def System.reset (ninst : Nat) : System := { insts := List.replicate ninst State.reset }

/-- One event of instance `k`; no other instance is read or written (R37). -/
def System.step (sys : System) (k : Fin sys.insts.length) : Host.Outcome System Fault Refusal :=
  match Sys2Proof.Machine.step sys.insts[k] with
  | .next s => .next { insts := sys.insts.set k s }
  | .fault r => .fault r
  | .refused r => .refused r

end Sys2Proof.Machine
end

