-- ==== Sys2Proof/Safety.lean ====
section
/-! DEFINITION. The terms claims are stated in: which registers hold a value in each phase, where a computation stands, which part of
the state is hardware, and what a good ending is. -/

namespace Sys2Proof.Machine

/-- One row of the table of 10_state.md R34: which registers hold a value, and ERRCODE. -/
structure PhaseRow where
  m : Bool
  mp : Bool
  blk : Bool
  h : Bool
  w : Bool
  work : Bool
  errcode : BitVec 2
  deriving DecidableEq, Repr

/-- The table of R34; the reserved phase has no row. -/
def Phase.row : Phase → Option PhaseRow
  | .idle => some ⟨false, false, false, false, false, false, 0⟩
  | .start => some ⟨true, false, false, false, false, false, 0⟩
  | .padded => some ⟨true, true, true, true, false, false, 0⟩
  | .expand => some ⟨true, true, true, true, true, false, 0⟩
  | .compress => some ⟨true, true, true, true, true, true, 0⟩
  | .finalized => some ⟨false, false, false, true, false, false, 0⟩
  | .error => some ⟨false, false, false, false, false, false, 1⟩
  | .reserved => none

/-- The registers that hold a value are those of the row, and ERRCODE is the row's. -/
def PhaseRow.Matches (r : PhaseRow) (s : State) : Prop :=
  s.M.isSome = r.m ∧ s.Mp.isSome = r.mp ∧ s.N.isSome = r.mp ∧ s.blk.isSome = r.blk ∧ s.H.isSome = r.h ∧
    s.W.isSome = r.w ∧ s.work.isSome = r.work ∧ s.t.isSome = r.work ∧ s.errcode = r.errcode

/-- The bounds in the table of R34: `blk ≤ N` in PADDED, `blk < N` in EXPAND and COMPRESS, `t ≤ 64`. -/
def CounterBounds (s : State) : Prop :=
  (∀ b n, s.blk = some b → s.N = some n → if s.phase = .padded then b ≤ n else b < n) ∧ ∀ t, s.t = some t → t ≤ 64

/-- The phase invariant (R34). -/
def PhaseInv (s : State) : Prop := (∃ r, s.phase.row = some r ∧ r.Matches s) ∧ CounterBounds s

/-- The schedule of block `i` of a message; none past the last block. -/
def scheduleAt (msg : Message) (i : Nat) : Option (Vector Word 64) := (blockAt msg i).map expandBlock

/-- What `M`, `Mp`, `N`, `blk` and `H` hold while block `b` of a message is at work: the padded message (40_preprocessor.md R75)
and the digest state after the blocks before it (43_accumulator.md R115). -/
def AtBlock (msg : Message) (b : BitVec 56) (s : State) : Prop :=
  s.M = some msg ∧ s.Mp = some (Memory.ofBytes (padMessage msg)) ∧ s.N = some (BitVec.ofNat 56 (blockCount msg)) ∧
    s.blk = some b ∧ s.H = some (stateAfter msg b.toNat)

/-- The state is one of the computation of `SHA256(msg)`, as far as its phase says it has come (R115, R117). -/
def Computing (msg : Message) (s : State) : Prop :=
  msg.length ≤ s.cfg.msgCap.val ∧
    match s.phase with
    | .start => s.M = some msg
    | .padded => ∃ b, AtBlock msg b s ∧ b.toNat ≤ blockCount msg
    | .expand => ∃ b, AtBlock msg b s ∧ b.toNat < blockCount msg ∧ s.W.isSome ∧ s.W = scheduleAt msg b.toNat
    | .compress =>
      ∃ b t w, AtBlock msg b s ∧ b.toNat < blockCount msg ∧ s.W = some w ∧ scheduleAt msg b.toNat = some w ∧ s.t = some t ∧
        ∃ ht : t.toNat ≤ 64, s.work = some (roundsUpTo w (Working.ofState (stateAfter msg b.toNat)) t.toNat ht)
    | .finalized => s.H = some (stateAfter msg (blockCount msg))
    | .idle | .error | .reserved => False

/-- The phase invariant, and every register of a computation holds the value that the hash function gives it there. -/
def HashInv (s : State) : Prop :=
  PhaseInv s ∧ (s.phase = .idle ∨ s.phase = .error ∨ ∃ msg, Computing msg s)

/-- `Mp`, where it holds a value, is in canonical form. -/
def MemoryInv (s : State) : Prop := ∀ m, s.Mp = some m → m.wf

/-- The two states agree on all hardware state (60_exceptions.md R141); the model's bookkeeping may differ. -/
def SameHardware (s s' : State) : Prop :=
  s'.phase = s.phase ∧ s'.errcode = s.errcode ∧ s'.M = s.M ∧ s'.Mp = s.Mp ∧ s'.N = s.N ∧ s'.blk = s.blk ∧ s'.t = s.t ∧
    s'.H = s.H ∧ s'.W = s.W ∧ s'.work = s.work

/-- The computation has ended: no core step is enabled (44_host_interface.md R130). -/
def Ended (s : State) : Prop := s.phase = .finalized ∨ s.phase = .error

/-- A good ending: ended, with no model fault and no refusal recorded. R130 says which runs are never one; that every other ended run
is one, a run that ended in ERROR among them, is the model's choice. DESIGN CHOICE, log 16. -/
def GoodEnding (s : State) : Prop := Ended s ∧ s.faults = [] ∧ s.refused = false

/-- The core steps left until FINALIZED (70_reset_and_hazards.md R159). -/
def stepsLeft (s : State) : Nat :=
  match s.phase, s.M, s.N, s.blk, s.t with
  | .start, some msg, _, _, _ => 2 + 67 * blockCount msg
  | .padded, _, some n, some b, _ => 1 + 67 * (n.toNat - b.toNat)
  | .expand, _, some n, some b, _ => 67 * (n.toNat - b.toNat)
  | .compress, _, some n, some b, some t => 67 * (n.toNat - b.toNat) - 1 - t.toNat
  | _, _, _, _, _ => 0

/-- How many of the events are the core's turns. -/
def coreTurns (es : List Event) : Nat := es.countP fun e => e = .core

/-- Every command among the events is one the decoder reads, and none is RESET. -/
def NoReset (es : List Event) : Prop := ∀ bytes, Event.host bytes ∈ es → ∃ i, decode bytes = .ok i ∧ i ≠ .reset

end Sys2Proof.Machine
end

