-- ==== Sys2Proof/Certificates/Slice0/Obligations.lean ====
section
/-! DEFINITION. The statements for the provers. Each docstring names the rule of spec/ it formalises. -/

open Sys2Proof Sys2Proof.Machine

/-! ### Host commands -/

/-- R122: NOP is `skip`, in every phase. -/
def Obligations.NopChangesNothing : Prop := ∀ s : State, exec .nop s = .next s

/-- R123: RESET, from every state, sets every data register to none, ERRCODE to 0 and the phase to IDLE; STATUS becomes 0x00; nothing
else changes, `faults` and `refused` among it; and the computation is abandoned: the core has no step left. -/
def Obligations.ResetDiscardsTheComputation : Prop :=
  ∀ s : State, ∃ u,
    exec .reset s = .next u ∧
      u = { s with M := none, Mp := none, N := none, blk := none, t := none, H := none, W := none, work := none,
                   errcode := 0, phase := .idle } ∧
      statusOf u = 0x00 ∧ coreTurn u = .next u

/-- R151: power-on reset leaves the hardware state that RESET leaves from any state: IDLE, ERRCODE 0, STATUS 0x00 and no data register
with a value; `faults` is empty and `refused` false. -/
def Obligations.PowerOnEqualsReset : Prop :=
  State.reset.phase = .idle ∧ State.reset.errcode = 0 ∧ statusOf State.reset = 0x00 ∧
    State.reset.M = none ∧ State.reset.Mp = none ∧ State.reset.N = none ∧ State.reset.blk = none ∧ State.reset.t = none ∧
    State.reset.H = none ∧ State.reset.W = none ∧ State.reset.work = none ∧
    State.reset.faults = [] ∧ State.reset.refused = false ∧
    ∀ s u : State, exec .reset s = .next u → SameHardware u State.reset

/-- R124: START's four outcomes with its checks in order: while busy the recorded fault and nothing else; a message longer than LMAX
raises InputTooLarge (STATUS 0x66); one longer than MSG_CAP sets the refusal mark; any other is accepted (STATUS 0x09).
(`notices` is the model's own record of the two events' `info`, log 3.) -/
def Obligations.StartChecksInOrder : Prop :=
  ∀ (msg : Message) (s : State),
    ((s.phase = .start ∨ s.phase = .padded ∨ s.phase = .expand ∨ s.phase = .compress) →
      exec (.start msg) s = .next { s with faults := insertFault (.startBusy s.phase) s.faults }) ∧
    (¬(s.phase = .start ∨ s.phase = .padded ∨ s.phase = .expand ∨ s.phase = .compress) → 2 ^ 61 - 1 < msg.length →
      ∃ u, exec (.start msg) s = .next u ∧
        u = { s with M := none, Mp := none, N := none, blk := none, t := none, H := none, W := none, work := none,
                     errcode := 1, phase := .error, notices := s.notices ++ [.inputTooLarge msg.length] } ∧
        statusOf u = 0x66) ∧
    (¬(s.phase = .start ∨ s.phase = .padded ∨ s.phase = .expand ∨ s.phase = .compress) → msg.length ≤ 2 ^ 61 - 1 →
      s.cfg.msgCap.val < msg.length →
      exec (.start msg) s = .next { s with refused := true, notices := s.notices ++ [.refCapacity msg.length] }) ∧
    (¬(s.phase = .start ∨ s.phase = .padded ∨ s.phase = .expand ∨ s.phase = .compress) → msg.length ≤ s.cfg.msgCap.val →
      ∃ u, exec (.start msg) s = .next u ∧
        u = { s with M := some msg, Mp := none, N := none, blk := none, t := none, H := none, W := none, work := none,
                     errcode := 0, phase := .start } ∧
        statusOf u = 0x09)

/-- R125, R59, R60: READ_STATUS, in every phase, responds with a byte whose fields are R58's, and changes nothing else. -/
def Obligations.ReadStatusRespondsWithTheFields : Prop :=
  ∀ s : State, ∃ b : Byte,
    exec .readStatus s = .next { s with responses := s.responses ++ [.status b] } ∧
      b.extractLsb' 0 3 = s.phase.code ∧
      b.getLsbD 3 = decide (s.phase = .start ∨ s.phase = .padded ∨ s.phase = .expand ∨ s.phase = .compress) ∧
      b.getLsbD 4 = decide (s.phase = .finalized) ∧
      b.getLsbD 5 = decide (s.phase = .error) ∧
      b.extractLsb' 6 2 = s.errcode

/-- R58 and R61: STATUS in each phase, and ERR = 1 exactly in ERROR, which is exactly where ERRCODE is not 0, in every state that meets
the phase invariant. -/
def Obligations.StatusValueInEachPhase : Prop :=
  ∀ s : State, PhaseInv s →
    (s.phase = .idle → statusOf s = 0x00) ∧ (s.phase = .start → statusOf s = 0x09) ∧
    (s.phase = .padded → statusOf s = 0x0A) ∧ (s.phase = .expand → statusOf s = 0x0B) ∧
    (s.phase = .compress → statusOf s = 0x0C) ∧ (s.phase = .finalized → statusOf s = 0x15) ∧
    (s.phase = .error → statusOf s = 0x66) ∧
    ((statusOf s).getLsbD 5 = true ↔ s.phase = .error) ∧ (s.phase = .error ↔ s.errcode ≠ 0)

/-- R126 and R42: in FINALIZED, READ_DIGEST responds with the 32 bytes of `H`, big-endian per word in state order, and changes nothing
else; in any other phase it records F_DIGEST_NOT_READY, and nothing else changes. -/
def Obligations.ReadDigestOnlyWhenFinalized : Prop :=
  ∀ s : State,
    (∀ h, s.phase = .finalized → s.H = some h →
      ∃ d : Vector Byte 32,
        exec .readDigest s = .next { s with responses := s.responses ++ [.digest d] } ∧
          ∀ (i k : Nat) (hi : i < 8) (_ : k < 4), d[4 * i + k] = h[i].extractLsb' (24 - 8 * k) 8) ∧
    (s.phase ≠ .finalized →
      exec .readDigest s = .next { s with faults := insertFault (.digestNotReady s.phase) s.faults })

/-- R47: READ_STATUS and READ_DIGEST have no side effect on the block, and issued twice return the same value. -/
def Obligations.ReadsAreRepeatable : Prop :=
  ∀ (i : Instr) (s u v : State), i = .readStatus ∨ i = .readDigest ∧ s.phase = .finalized ∧ s.H.isSome →
    exec i s = .next u → exec i u = .next v →
    SameHardware s u ∧ ∃ r, u.responses = s.responses ++ [r] ∧ v.responses = s.responses ++ [r, r]

/-- R127: a reserved command records F_RESERVED_CMD; no state changes and there is no response. -/
def Obligations.ReservedCommandRecordsFault : Prop :=
  ∀ (cmd : Byte) (s : State),
    exec (.reserved cmd) s = .next { s with faults := insertFault (.reservedCmd cmd) s.faults }

/-! ### Core steps -/

/-- R75, R111: PAD. The message buffer becomes `pad(M)`, `N` its block count, `blk` 0 and `H` the initial constants. -/
def Obligations.PadBuildsTheBuffer : Prop :=
  ∀ (s : State) (msg : Message), s.phase = .start → s.M = some msg → msg.length ≤ 2 ^ 61 - 1 →
    ∃ u, exec .pad s = .next u ∧
      u = { s with Mp := some (Memory.ofBytes (padMessage msg)),
                   N := some (BitVec.ofNat 56 ((padMessage msg).length / 64)),
                   blk := some 0,
                   H := some #v[0x6A09E667, 0xBB67AE85, 0x3C6EF372, 0xA54FF53A,
                                0x510E527F, 0x9B05688C, 0x1F83D9AB, 0x5BE0CD19],
                   phase := .padded } ∧
      (∀ a : Nat, u.readMp a = (padMessage msg)[a]?) ∧
      (s.errcode = 0 → statusOf s = 0x09 ∧ statusOf u = 0x0A)

/-- R85, with R81 and R84: EXPAND. The 16 message words of block `blk`, big-endian, and the 48 words that follow by the recurrence. -/
def Obligations.ExpandComputesTheSchedule : Prop :=
  ∀ (s : State) (mp : Memory) (b n : BitVec 56) (B : Nat → Byte),
    s.phase = .padded → s.blk = some b → s.N = some n → b < n → s.Mp = some mp →
    (∀ j, j < 64 → mp.read (64 * b.toNat + j) = some (B j)) →
    ∃ (u : State) (w : Vector Word 64),
      exec .expand s = .next u ∧ u = { s with W := some w, phase := .expand } ∧
        (∀ (j : Nat) (_ : j < 16), w[j] = be32 (B (4 * j)) (B (4 * j + 1)) (B (4 * j + 2)) (B (4 * j + 3))) ∧
        (∀ (t : Nat) (_ : 16 ≤ t) (_ : t < 64),
          w[t] = w[t - 16] + smallSigma0 w[t - 15] + w[t - 7] + smallSigma1 w[t - 2]) ∧
        (s.errcode = 0 → statusOf s = 0x0A ∧ statusOf u = 0x0B)

/-- R99: CINIT. -/
def Obligations.CinitLoadsTheWorkingRegisters : Prop :=
  ∀ (s : State) (h : Vector Word 8), s.phase = .expand → s.H = some h →
    ∃ u, exec .cinit s = .next u ∧
      u = { s with work := some ⟨h[0], h[1], h[2], h[3], h[4], h[5], h[6], h[7]⟩, t := some 0, phase := .compress } ∧
      (s.errcode = 0 → statusOf s = 0x0B ∧ statusOf u = 0x0C)

/-- R100, R97: ROUND, one simultaneous update of `a` to `h` with `T1` and `T2`, for every round index below 64. -/
def Obligations.RoundUpdatesTheWorkingRegisters : Prop :=
  ∀ (s : State) (t : BitVec 7) (w : Vector Word 64) (r : Working) (ht : t.toNat < 64),
    s.phase = .compress → s.t = some t → s.W = some w → s.work = some r →
    ∃ u T1 T2, exec .round s = .next u ∧
      T1 = r.h + bigSigma1 r.e + choice r.e r.f r.g + kRom[t.toNat] + w[t.toNat] ∧
      T2 = bigSigma0 r.a + majority r.a r.b r.c ∧
      u = { s with work := some ⟨T1 + T2, r.a, r.b, r.c, r.d + T1, r.e, r.f, r.g⟩, t := some (t + 1) } ∧
      (t + 1).toNat = t.toNat + 1 ∧ statusOf u = statusOf s

/-- R101: CADD, at `t = 64`, for every `blk < N`, which the phase invariant gives in COMPRESS (R34): `blk` is one more. -/
def Obligations.CaddFoldsIntoTheDigestState : Prop :=
  ∀ (s : State) (r : Working) (h : Vector Word 8) (b n : BitVec 56),
    s.phase = .compress → s.t = some 64 → s.work = some r → s.H = some h → s.blk = some b → s.N = some n → b < n →
    ∃ u, exec .cadd s = .next u ∧ (b + 1).toNat = b.toNat + 1 ∧
      u = { s with H := some #v[h[0] + r.a, h[1] + r.b, h[2] + r.c, h[3] + r.d,
                                h[4] + r.e, h[5] + r.f, h[6] + r.g, h[7] + r.h],
                   blk := some (b + 1), W := none, work := none, t := none, phase := .padded } ∧
      (s.errcode = 0 → statusOf s = 0x0C ∧ statusOf u = 0x0A)

/-- R113: FINALIZE, at `blk = N`; `H` keeps its value. -/
def Obligations.FinalizeKeepsTheDigestState : Prop :=
  ∀ (s : State) (n : BitVec 56), s.phase = .padded → s.blk = some n → s.N = some n →
    ∃ u, exec .finalize s = .next u ∧
      u = { s with M := none, Mp := none, N := none, blk := none, phase := .finalized } ∧ u.H = s.H ∧
      (s.errcode = 0 → statusOf s = 0x0A ∧ statusOf u = 0x15)

/-! ### Word functions -/

/-- R10: bit `i` of `rotr(x, n)` is bit `(i + n) mod 32` of `x`, for `0 < n < 32`. -/
def Obligations.RotrMovesBits : Prop :=
  ∀ (x : Word) (n i : Nat), 0 < n → n < 32 → i < 32 → (rotr x n).getLsbD i = x.getLsbD ((i + n) % 32)

/-- R82, R83: the small sigmas bit by bit (two rotations and a logical shift), and the spec's examples. -/
def Obligations.SmallSigmasBitByBit : Prop :=
  (∀ (x : Word) (i : Nat), i < 32 →
    (smallSigma0 x).getLsbD i =
      ((x.getLsbD ((i + 7) % 32) ^^ x.getLsbD ((i + 18) % 32)) ^^ (decide (i + 3 < 32) && x.getLsbD (i + 3))) ∧
    (smallSigma1 x).getLsbD i =
      ((x.getLsbD ((i + 17) % 32) ^^ x.getLsbD ((i + 19) % 32)) ^^ (decide (i + 10 < 32) && x.getLsbD (i + 10)))) ∧
  smallSigma0 0x00000001 = 0x02004000 ∧ smallSigma0 0xFFFFFFFF = 0x1FFFFFFF ∧ smallSigma0 0x80000000 = 0x11002000 ∧
  smallSigma1 0x00000001 = 0x0000A000 ∧ smallSigma1 0xFFFFFFFF = 0x003FFFFF ∧ smallSigma1 0x80000000 = 0x00205000

/-- R91 to R94: the big sigmas, Ch (select) and Maj (majority) bit by bit, and the spec's examples. -/
def Obligations.RoundFunctionsBitByBit : Prop :=
  (∀ (x y z : Word) (i : Nat), i < 32 →
    (bigSigma0 x).getLsbD i =
      ((x.getLsbD ((i + 2) % 32) ^^ x.getLsbD ((i + 13) % 32)) ^^ x.getLsbD ((i + 22) % 32)) ∧
    (bigSigma1 x).getLsbD i =
      ((x.getLsbD ((i + 6) % 32) ^^ x.getLsbD ((i + 11) % 32)) ^^ x.getLsbD ((i + 25) % 32)) ∧
    (choice x y z).getLsbD i = (if x.getLsbD i then y.getLsbD i else z.getLsbD i) ∧
    ((majority x y z).getLsbD i = true ↔
      2 ≤ (x.getLsbD i).toNat + (y.getLsbD i).toNat + (z.getLsbD i).toNat)) ∧
  bigSigma0 0x00000001 = 0x40080400 ∧ bigSigma0 0xFFFFFFFF = 0xFFFFFFFF ∧ bigSigma0 0x80000000 = 0x20040200 ∧
  bigSigma1 0x00000001 = 0x04200080 ∧ bigSigma1 0xFFFFFFFF = 0xFFFFFFFF ∧ bigSigma1 0x80000000 = 0x02100040 ∧
  choice 0xF0F0F0F0 0xAAAAAAAA 0x55555555 = 0xA5A5A5A5 ∧ majority 0xF0F0F0F0 0xCCCCCCCC 0xAAAAAAAA = 0xE8E8E8E8 ∧
  majority 0 0 0xFFFFFFFF = 0

/-- R11: the packing functions are big-endian: `be32` as a number, `bytes32` as its inverse, and `bytes64` as the eight base-256 digits. -/
def Obligations.PackingIsBigEndian : Prop :=
  (∀ b0 b1 b2 b3 : Byte,
    (be32 b0 b1 b2 b3).toNat = b0.toNat * 2 ^ 24 + b1.toNat * 2 ^ 16 + b2.toNat * 2 ^ 8 + b3.toNat ∧
      bytes32 (be32 b0 b1 b2 b3) = #v[b0, b1, b2, b3]) ∧
  (∀ w : Word, be32 (bytes32 w)[0] (bytes32 w)[1] (bytes32 w)[2] (bytes32 w)[3] = w) ∧
  ∀ v : Nat, v < 2 ^ 64 →
    (bytes64 v).length = 8 ∧ (bytes64 v).foldl (fun acc b => 256 * acc + b.toNat) 0 = v

/-- R95, R96 and R109, R110: each `K[t]` is the low 32 bits of the integer cube root of `p · 2^96`, and each `IV[i]` of the integer square
root of `p · 2^64`, for the primes `p` in order. -/
def Obligations.RomsHoldFractionalRoots : Prop :=
  let primes := (List.range 312).filter fun p => decide (2 ≤ p ∧ ∀ d ∈ List.range p, 2 ≤ d → p % d ≠ 0)
  primes.length = 64 ∧
    (∀ (t : Nat) (_ : t < 64), ∃ c p : Nat, primes[t]? = some p ∧ c ^ 3 ≤ p * 2 ^ 96 ∧ p * 2 ^ 96 < (c + 1) ^ 3 ∧
      kRom[t].toNat = c % 2 ^ 32) ∧
    (∀ (i : Nat) (_ : i < 8), ∃ c p : Nat, primes[i]? = some p ∧ c ^ 2 ≤ p * 2 ^ 64 ∧ p * 2 ^ 64 < (c + 1) ^ 2 ∧
      ivRom[i].toNat = c % 2 ^ 32)

/-! ### Padding -/

/-- R74: the six properties of the padded message; the length field read as a big-endian number is the bit length. -/
def Obligations.PaddedMessageLayout : Prop :=
  ∀ msg : Message, msg.length ≤ 2 ^ 61 - 1 →
    let p := padMessage msg
    let L := msg.length
    let k := (119 - L % 64) % 64
    (∀ i, i < L → p[i]? = msg[i]?) ∧
    p[L]? = some 0x80 ∧
    (∀ i, L + 1 ≤ i → i < L + 1 + k → p[i]? = some 0x00) ∧
    (p.drop (p.length - 8)).length = 8 ∧ p.drop (p.length - 8) = bytes64 (8 * L) ∧
    (p.drop (p.length - 8)).foldl (fun acc b => 256 * acc + b.toNat) 0 = 8 * L ∧
    p.length % 64 = 0 ∧ 64 ≤ p.length ∧ L + 9 ≤ p.length ∧ p.length ≤ L + 72

/-- R73: the padded length is `L + 9 + k`, the least multiple of 64 that is at least `L + 9`; the block count; where an extra block is
needed. -/
def Obligations.PaddedLengthIsLeastMultiple : Prop :=
  ∀ msg : Message,
    let L := msg.length
    ((padMessage msg).length : Int) = (L : Int) + 9 + (55 - (L : Int)) % 64 ∧
    64 ∣ (padMessage msg).length ∧ L + 9 ≤ (padMessage msg).length ∧
    (∀ x : Nat, 64 ∣ x → L + 9 ≤ x → (padMessage msg).length ≤ x) ∧
    blockCount msg = (L + 8) / 64 + 1 ∧ (padMessage msg).length = 64 * blockCount msg ∧ 1 ≤ blockCount msg ∧
    (blockCount msg ≠ (L + 63) / 64 ↔ 56 ≤ L % 64 ∨ L % 64 = 0)

/-- R18, R22, R70: for a message of at most LMAX bytes the bit length fits 64 bits, the block count is at most `2^55 + 1`, and the 56-bit
register `N` holds it unchanged. -/
def Obligations.CountersAndLengthFit : Prop :=
  ∀ msg : Message, msg.length ≤ 2 ^ 61 - 1 →
    8 * msg.length ≤ 2 ^ 64 - 8 ∧ blockCount msg ≤ 2 ^ 55 + 1 ∧
      (BitVec.ofNat 56 (blockCount msg)).toNat = blockCount msg

/-! ### Errors, model faults and the refusal -/

/-- R135: a START of 2^61 bytes or more, with no computation under way, enters ERROR: ERRCODE 1, STATUS 0x66, every data register none;
its bit length does not fit 64 bits; the event carries the length; no core step follows; and nothing but START enters ERROR. -/
def Obligations.OnlyStartRaisesInputTooLarge : Prop :=
  (∀ (msg : Message) (s : State), s.phase.busy = false → 2 ^ 61 ≤ msg.length →
    2 ^ 64 ≤ 8 * msg.length ∧
      ∃ u, exec (.start msg) s = .next u ∧ u.phase = .error ∧ u.errcode = 1 ∧ statusOf u = 0x66 ∧
        u.M = none ∧ u.Mp = none ∧ u.N = none ∧ u.blk = none ∧ u.t = none ∧ u.H = none ∧ u.W = none ∧ u.work = none ∧
        u.faults = s.faults ∧ u.refused = s.refused ∧ u.notices = s.notices ++ [.inputTooLarge msg.length] ∧
        coreTurn u = .next u) ∧
  ∀ (i : Instr) (s u : State), exec i s = .next u → u.phase = .error → s.phase ≠ .error →
    ∃ msg, i = .start msg ∧ 2 ^ 61 ≤ msg.length ∧ s.phase.busy = false

/-- R142: REF_CAPACITY sets `refused` and changes no hardware state, and where MSG_CAP = LMAX no operation sets the mark. -/
def Obligations.CapacityRefusalSetsTheMark : Prop :=
  (∀ (msg : Message) (s : State), s.phase.busy = false → s.cfg.msgCap.val < msg.length → msg.length ≤ 2 ^ 61 - 1 →
    ∃ u, exec (.start msg) s = .next u ∧ u.refused = true ∧ SameHardware s u) ∧
  ∀ (i : Instr) (s u : State), s.cfg.msgCap.val = 2 ^ 61 - 1 → exec i s = .next u → u.refused = s.refused

/-- R137: in ERROR the core's turn does nothing; RESET leads to IDLE and an accepted START to START; and every step that leaves ERROR is
one of these two. -/
def Obligations.ErrorIsLeftByResetOrStart : Prop :=
  ∀ s : State, s.phase = .error →
    coreTurn s = .next s ∧
    (∃ u, exec .reset s = .next u ∧ u.phase = .idle) ∧
    (∀ msg : Message, msg.length ≤ s.cfg.msgCap.val → ∃ u, exec (.start msg) s = .next u ∧ u.phase = .start) ∧
    ∀ u, step s = .next u → u.phase ≠ .error →
      ∃ bytes rest i, s.events = .host bytes :: rest ∧ decode bytes = .ok i ∧
        (i = .reset ∧ u.phase = .idle ∨ ∃ msg, i = .start msg ∧ u.phase = .start)

/-- R15 and R139: a step or command that reads a register that holds none records F_NO_VALUE, and nothing else changes. The core's turn
reads `blk` and `N` in PADDED and `t` in COMPRESS to select its step, and does the same (DEDUCED, log 11). -/
def Obligations.MissingRegisterRecordsNoValue : Prop :=
  ∀ s : State,
    let noValue : Host.Outcome State Fault Refusal := .next { s with faults := insertFault .noValue s.faults }
    (s.phase = .start → s.M = none → exec .pad s = noValue) ∧
    (s.phase = .padded → (s.blk = none ∨ s.N = none) → exec .expand s = noValue ∧ exec .finalize s = noValue) ∧
    (∀ b n, s.phase = .padded → s.blk = some b → s.N = some n → b < n → s.Mp = none → exec .expand s = noValue) ∧
    (s.phase = .expand → s.H = none → exec .cinit s = noValue) ∧
    (s.phase = .compress → s.t = none → exec .round s = noValue ∧ exec .cadd s = noValue) ∧
    (∀ t : BitVec 7, s.phase = .compress → s.t = some t → t < 64 → (s.work = none ∨ s.W = none) → exec .round s = noValue) ∧
    (s.phase = .compress → s.t = some 64 → (s.work = none ∨ s.H = none ∨ s.blk = none) → exec .cadd s = noValue) ∧
    (s.phase = .finalized → s.H = none → exec .readDigest s = noValue) ∧
    (s.phase = .padded → (s.blk = none ∨ s.N = none) → coreTurn s = noValue) ∧
    (s.phase = .compress → s.t = none → coreTurn s = noValue)

/-- R57: the phase codes; no rule writes code 7; the core that finds it records F_PHASE_RESERVED and has no step. -/
def Obligations.ReservedPhaseIsNeverWritten : Prop :=
  (Phase.code .idle = 0 ∧ Phase.code .start = 1 ∧ Phase.code .padded = 2 ∧ Phase.code .expand = 3 ∧
    Phase.code .compress = 4 ∧ Phase.code .finalized = 5 ∧ Phase.code .error = 6 ∧ Phase.code .reserved = 7) ∧
  (∀ (i : Instr) (s u : State), exec i s = .next u → u.phase = .reserved → s.phase = .reserved) ∧
  ∀ s : State, s.phase = .reserved → coreTurn s = .next { s with faults := insertFault .phaseReserved s.faults }

/-- R141: whatever records a model fault, a command, a core step or the core's turn without one, leaves the phase, STATUS, and every
other part of the state as it was. -/
def Obligations.FaultsChangeNothingElse : Prop :=
  (∀ (i : Instr) (s u : State), exec i s = .next u → u.faults ≠ s.faults →
    u = { s with faults := u.faults } ∧ statusOf u = statusOf s) ∧
  ∀ s u : State, coreTurn s = .next u → u.faults ≠ s.faults → u = { s with faults := u.faults } ∧ statusOf u = statusOf s

/-- R30: `faults` is a set that only grows and `refused` a mark that no step clears; both are empty or false at launch, STATUS does not
depend on them, and what a command returns does not either. -/
def Obligations.BookkeepingOnlyGrows : Prop :=
  State.reset.faults = [] ∧ State.reset.refused = false ∧
  (∀ (f g : ModelFault) (fs : List ModelFault), g ∈ insertFault f fs ↔ g = f ∨ g ∈ fs) ∧
  (∀ s u : State, step s = .next u → (∀ f, f ∈ s.faults → f ∈ u.faults) ∧ (s.refused = true → u.refused = true)) ∧
  ∀ (s : State) (fs : List ModelFault) (r : Bool), statusOf { s with faults := fs, refused := r } = statusOf s ∧
    ∀ (i : Instr) (u u' : State), exec i s = .next u → exec i { s with faults := fs, refused := r } = .next u' →
      u'.responses = u.responses

/-- The model's named stops (DESIGN CHOICE, log 4, 5, 6): a core step outside its guard, counters for which the micro-operation map has
no row, a MemRead beyond `Mp`, and a message outside `pad`'s domain. A step outside its guard stops by the phase first, whatever registers
hold none (log 11). -/
def Obligations.NamedStops : Prop :=
  ∀ s : State,
    (s.phase ≠ .start → exec .pad s = .fault .stepNotEnabled) ∧
    (s.phase ≠ .padded → exec .expand s = .fault .stepNotEnabled ∧ exec .finalize s = .fault .stepNotEnabled) ∧
    (∀ b n, s.phase = .padded → s.blk = some b → s.N = some n →
      (n ≤ b → exec .expand s = .fault .stepNotEnabled) ∧ (b ≠ n → exec .finalize s = .fault .stepNotEnabled) ∧
      (n < b → coreTurn s = .fault .sequencerStuck) ∧
      ∀ (mp : Memory) (j : Nat), b < n → s.Mp = some mp → j < 64 → mp.read (64 * b.toNat + j) = none →
        exec .expand s = .fault .memRange) ∧
    (s.phase ≠ .expand → exec .cinit s = .fault .stepNotEnabled) ∧
    (s.phase ≠ .compress → exec .round s = .fault .stepNotEnabled ∧ exec .cadd s = .fault .stepNotEnabled) ∧
    (∀ t : BitVec 7, s.phase = .compress → s.t = some t →
      (64 ≤ t → exec .round s = .fault .stepNotEnabled) ∧ (t ≠ 64 → exec .cadd s = .fault .stepNotEnabled) ∧
      (64 < t → coreTurn s = .fault .sequencerStuck)) ∧
    ∀ msg : Message, s.phase = .start → s.M = some msg → 2 ^ 61 ≤ msg.length → exec .pad s = .fault .padDomain

/-! ### Sequencing -/

/-- R65: no word encodes a core step; the core's turn runs the step that the micro-operation map selects; in IDLE, FINALIZED and ERROR it
waits; at phase code 7 it records F_PHASE_RESERVED. (Where a counter it must read holds none: MissingRegisterRecordsNoValue.) -/
def Obligations.CoreTurnRunsTheSelectedStep : Prop :=
  (∀ (i : Instr) (bytes : List Byte), decode bytes = .ok i → i.isHost = true) ∧
  ∀ s : State,
    (s.phase = .start → coreTurn s = exec .pad s) ∧
    (∀ b n, s.phase = .padded → s.blk = some b → s.N = some n → b < n → coreTurn s = exec .expand s) ∧
    (∀ n, s.phase = .padded → s.blk = some n → s.N = some n → coreTurn s = exec .finalize s) ∧
    (s.phase = .expand → coreTurn s = exec .cinit s) ∧
    (∀ t : BitVec 7, s.phase = .compress → s.t = some t → t < 64 → coreTurn s = exec .round s) ∧
    (s.phase = .compress → s.t = some 64 → coreTurn s = exec .cadd s) ∧
    ((s.phase = .idle ∨ s.phase = .finalized ∨ s.phase = .error) → coreTurn s = .next s) ∧
    (s.phase = .reserved → coreTurn s = .next { s with faults := insertFault .phaseReserved s.faults })

/-- Where the next event is the core's, or none is listed (the host is silent, R129), a step is the core's turn on the state with that
event taken. The list of events is the model's own, log 1. -/
def Obligations.StepGivesTheCoreItsTurn : Prop :=
  ∀ (s : State) (rest : List Event), (s.events = .core :: rest ∨ s.events = [] ∧ rest = []) →
    step s = coreTurn { s with events := rest }

/-- A step runs the decoded command: where the next event is bytes on the port that decode to `i`, `step` is `exec i` on the state with
that event taken (R119, R121; the list of events is the model's, log 1). -/
def Obligations.StepRunsTheDecodedCommand : Prop :=
  ∀ (s : State) (bytes : List Byte) (rest : List Event) (i : Instr),
    s.events = .host bytes :: rest → decode bytes = .ok i → step s = exec i { s with events := rest }

/-- The model's choice (log 7): bytes on the port that are no command (none at all, or a payload with a command other than START) are
refused by name. -/
def Obligations.UndecodableBytesAreRefused : Prop :=
  ∀ (s : State) (rest : List Event),
    (s.events = .host [] :: rest → step s = .refused (.undecodable .noCommand)) ∧
    ∀ (cmd b : Byte) (more : List Byte), cmd ≠ 0x02 → s.events = .host (cmd :: b :: more) :: rest →
      step s = .refused (.undecodable (.unexpectedPayload cmd))

/-- R120 and R118: in a state that meets the phase invariant exactly one core step is enabled in the busy phases, and none in the others.
(A step outside its guard answers the fault `stepNotEnabled`, log 4.) -/
def Obligations.ExactlyOneCoreStepWhileBusy : Prop :=
  ∀ s : State, PhaseInv s →
    (s.phase.busy = true → ∃ i, i.isHost = false ∧ exec i s ≠ .fault .stepNotEnabled ∧
      ∀ j, j.isHost = false → exec j s ≠ .fault .stepNotEnabled → j = i) ∧
    (s.phase.busy = false → ∀ j, j.isHost = false → exec j s = .fault .stepNotEnabled)

/-- R156 and R129: while a computation is under way every command but RESET answers a next state and leaves all hardware state as it was
(90_conflicts.md C5). -/
def Obligations.OnlyResetDisturbsAComputation : Prop :=
  ∀ (i : Instr) (s : State), s.phase.busy = true → i.isHost = true → i ≠ .reset →
    ∃ u, exec i s = .next u ∧ SameHardware s u

/-! ### Encodings -/

/-- R55: the command codes, START's payload, and the reserved codes. -/
def Obligations.CommandCodesDecode : Prop :=
  decode [0x00] = .ok .nop ∧ decode [0x01] = .ok .reset ∧ decode [0x03] = .ok .readStatus ∧
    decode [0x04] = .ok .readDigest ∧ (∀ msg : Message, decode (0x02 :: msg) = .ok (.start msg)) ∧
    ∀ cmd : Byte, 5 ≤ cmd.toNat → decode [cmd] = .ok (.reserved cmd)

/-- R68 and R54 to R56: bytes decode to an instruction exactly where it is a well-formed host command and they are its encoding, for every
command, payload and reserved code; and every 8-bit value decodes. -/
def Obligations.DecodeAndEncodeAgree : Prop :=
  (∀ (bytes : List Byte) (i : Instr),
    decode bytes = .ok i ↔ i.wf = true ∧ i.isHost = true ∧ encode i = some bytes) ∧
  ∀ cmd : Byte, ∃ i, decode [cmd] = .ok i

/-! ### Invariants -/

/-- R34: every step and command preserves the phase invariant. -/
def Obligations.PhaseInvariantIsKept : Prop :=
  ∀ s u : State, PhaseInv s → step s = .next u → PhaseInv u

/-- R115 and R117, as an invariant: in every phase every register of the computation holds what the hash function gives it there, and
every step keeps it so, whatever the events. -/
def Obligations.HashInvariantIsKept : Prop :=
  ∀ s u : State, HashInv s → step s = .next u → HashInv u

/-- The memory's canonical form (the model's, log 5) is kept by every step. -/
def Obligations.MemoryFormIsKept : Prop :=
  ∀ s u : State, MemoryInv s → step s = .next u → MemoryInv u

/-- The three invariants hold at reset. -/
def Obligations.ResetMeetsTheInvariants : Prop :=
  PhaseInv State.reset ∧ HashInv State.reset ∧ MemoryInv State.reset

/-- R15, R136 and R139: where the hash invariant holds, the core's turn answers a next state and records nothing, and every command
answers a next state and records neither F_NO_VALUE nor F_PHASE_RESERVED. -/
def Obligations.NoStepFaultsUnderTheInvariant : Prop :=
  ∀ s : State, HashInv s →
    (∃ u, coreTurn s = .next u ∧ u.faults = s.faults ∧ u.refused = s.refused) ∧
    ∀ i : Instr, i.isHost = true → ∃ u, exec i s = .next u ∧
      (ModelFault.noValue ∈ u.faults → ModelFault.noValue ∈ s.faults) ∧
      (ModelFault.phaseReserved ∈ u.faults → ModelFault.phaseReserved ∈ s.faults)

/-! ### The whole computation -/

/-- R159 and R129: the core's turn in a busy phase takes exactly one off the steps left, which START sets at `2 + 67 N`. -/
def Obligations.EachCoreStepCountsDown : Prop :=
  ∀ (s : State) (msg : Message), Computing msg s → s.phase.busy = true →
    (s.phase = .start → stepsLeft s = 2 + 67 * blockCount msg) ∧
      ∃ u, coreTurn s = .next u ∧ stepsLeft u + 1 = stepsLeft s ∧ (u.phase.busy = false ↔ stepsLeft u = 0)

/-- R117, over the model's own list of events (log 1), one for each interleaving: from START with a message of at most MSG_CAP bytes, whatever decodable commands but RESET come between, the core is busy until
its `2 + 67 N`-th turn and FINALIZED after it, and the digest bytes of `H` there are `SHA256(M)`; READ_DIGEST then returns them. -/
def Obligations.StepMachineComputesSha256 : Prop :=
  ∀ (s : State) (msg : Message) (es : List Event),
    s.phase = .start → s.M = some msg → msg.length ≤ s.cfg.msgCap.val → s.events = es ++ [.core] → NoReset es →
    coreTurns es + 1 = 2 + 67 * blockCount msg →
    (∀ k, k ≤ es.length → ∃ v : State, Sys2Proof.core.run k s = .next v ∧ v.phase.busy = true) ∧
    ∃ (u : State) (h : Vector Word 8), Sys2Proof.core.run (es.length + 1) s = .next u ∧ u.phase = .finalized ∧
      u.H = some h ∧ sha256 msg = some (digestBytes h) ∧
      exec .readDigest u = .next { u with responses := u.responses ++ [.digest (digestBytes h)] }

/-- R98: from EXPAND, CINIT, 64 ROUNDs and CADD compute exactly `H <- compress(H, W)`, go on to the next block and discard the scratch
registers, for every `blk < N`, which the phase invariant gives in EXPAND (R34). That the core moves where the host is silent and no event
is listed is the model's choice, log 1: this is the one interleaving with no command in it. -/
def Obligations.BlockStepsComputeCompress : Prop :=
  ∀ (s : State) (h : Vector Word 8) (w : Vector Word 64) (b n : BitVec 56),
    s.phase = .expand → s.H = some h → s.W = some w → s.blk = some b → s.N = some n → b < n → s.events = [] →
    (b + 1).toNat = b.toNat + 1 ∧
    Sys2Proof.core.run 66 s =
      .next { s with H := some (compressBlock h w), blk := some (b + 1), W := none, work := none, t := none,
                     phase := .padded }

/-- R87: an on-the-fly expander with a 16-word window yields in round `t` the word `W[t]` of EXPAND's schedule. -/
def Obligations.WindowExpanderRefinesExpand : Prop :=
  ∀ (block : Vector Byte 64) (t : Nat) (_ : t < 64), (windowAt block t)[0] = (expandBlock block)[t]

/-- R130 and R140: once a model fault or the refusal is recorded no later state of the run is a good ending; and where a computation has
ended the core has no step. -/
def Obligations.FaultedRunsNeverEndWell : Prop :=
  (∀ (n : Nat) (s u : State), Sys2Proof.core.run n s = .next u → (s.faults ≠ [] ∨ s.refused = true) → ¬GoodEnding u) ∧
  ∀ s : State, Ended s → coreTurn s = .next s

/-! ### Frames -/

/-- R32: the writers of each register, and whether they write a value or none; no other operation changes it. (`K` and `IV` are
constants.) -/
def Obligations.WritersOfEachRegister : Prop :=
  ∀ (i : Instr) (s u : State), exec i s = .next u →
    (u.phase ≠ s.phase → i = .reset ∨ (∃ m, i = .start m) ∨ i = .pad ∨ i = .expand ∨ i = .cinit ∨ i = .cadd ∨ i = .finalize) ∧
    (u.errcode ≠ s.errcode → i = .reset ∨ ∃ m, i = .start m) ∧
    (u.M ≠ s.M → (∃ m, i = .start m ∧ (u.M = some m ∨ u.M = none)) ∨ (i = .reset ∨ i = .finalize) ∧ u.M = none) ∧
    ((u.Mp ≠ s.Mp ∨ u.N ≠ s.N) →
      i = .pad ∧ u.Mp.isSome ∧ u.N.isSome ∨ (i = .reset ∨ (∃ m, i = .start m) ∨ i = .finalize) ∧ u.Mp = none ∧ u.N = none) ∧
    (u.blk ≠ s.blk →
      (i = .pad ∨ i = .cadd) ∧ u.blk.isSome ∨ (i = .reset ∨ (∃ m, i = .start m) ∨ i = .finalize) ∧ u.blk = none) ∧
    (u.H ≠ s.H →
      i = .pad ∧ u.H = some ivRom ∨ i = .cadd ∧ u.H.isSome ∨ (i = .reset ∨ ∃ m, i = .start m) ∧ u.H = none) ∧
    (u.W ≠ s.W → i = .expand ∧ u.W.isSome ∨ (i = .cadd ∨ i = .reset ∨ ∃ m, i = .start m) ∧ u.W = none) ∧
    ((u.work ≠ s.work ∨ u.t ≠ s.t) →
      (i = .cinit ∨ i = .round) ∧ u.work.isSome ∧ u.t.isSome ∨
        (i = .cadd ∨ i = .reset ∨ ∃ m, i = .start m) ∧ u.work = none ∧ u.t = none)

/-- The memory frame (R12, R21, R47): for every operation but PAD, RESET, START and FINALIZE every address of `Mp` reads as before; and an
operation other than RESET leaves it so in EXPAND and COMPRESS, and in PADDED unless it is FINALIZE. -/
def Obligations.MessageBufferReadsAsBefore : Prop :=
  ∀ (i : Instr) (s u : State), exec i s = .next u →
    (i ≠ .pad → i ≠ .reset → (∀ m, i ≠ .start m) → i ≠ .finalize → ∀ a : Nat, u.readMp a = s.readMp a) ∧
    (i ≠ .reset → i ≠ .finalize → (s.phase = .padded ∨ s.phase = .expand ∨ s.phase = .compress) →
      ∀ a : Nat, u.readMp a = s.readMp a)

/-- The frame of everything beside the registers: no operation writes the parameter or the events to come; only READ_STATUS and
READ_DIGEST respond; only START writes `refused` and `notices`; the core steps other than by F_NO_VALUE, and NOP, RESET and
READ_STATUS, leave `faults` (R6, R30, R64; `events`, `responses` and `notices` are the model's own, log 1 and log 3). -/
def Obligations.ParametersAndBookkeepingFrame : Prop :=
  ∀ (i : Instr) (s u : State), exec i s = .next u →
    u.cfg = s.cfg ∧ u.events = s.events ∧
    (i ≠ .readStatus → i ≠ .readDigest → u.responses = s.responses) ∧
    ((∀ m, i ≠ .start m) → u.refused = s.refused ∧ u.notices = s.notices) ∧
    ((i = .nop ∨ i = .reset ∨ i = .readStatus) → u.faults = s.faults) ∧
    (i.isHost = false → u.faults = s.faults ∨ u.faults = insertFault .noValue s.faults)

/-- R31: what a command returns depends on the phase, ERRCODE and, in FINALIZED alone, `H`; on no other register. -/
def Obligations.HostObservesOnlyStatusAndDigest : Prop :=
  ∀ (i : Instr) (s s' u u' : State), exec i s = .next u → exec i s' = .next u' →
    s.phase = s'.phase → s.errcode = s'.errcode → (s.phase = .finalized → s.H = s'.H) → s.responses = s'.responses →
    u.responses = u'.responses

/-- R37 and R132: a step of one instance leaves every other as it was, depends on that instance alone, and steps of two instances commute.
Every instance starts in IDLE (R149). -/
def Obligations.InstancesAreIndependent : Prop :=
  (∀ (sys sys' : System) (k : Fin sys.insts.length), sys.step k = .next sys' →
    sys'.insts.length = sys.insts.length ∧ (∀ j : Nat, j ≠ k.val → sys'.insts[j]? = sys.insts[j]?) ∧
      ∃ s, step sys.insts[k] = .next s ∧ sys'.insts[k.val]? = some s) ∧
  (∀ (sys : System) (j k : Fin sys.insts.length) (s s' : State), j ≠ k →
    step sys.insts[j] = .next s → step sys.insts[k] = .next s' →
    ∃ (sj sk : System) (kj : Fin sj.insts.length) (jk : Fin sk.insts.length) (both : System),
      sys.step j = .next sj ∧ sys.step k = .next sk ∧ kj.val = k.val ∧ jk.val = j.val ∧
        sj.step kj = .next both ∧ sk.step jk = .next both) ∧
  ∀ (n : Nat) (s : State), s ∈ (System.reset n).insts → s.phase = .idle

/-! ### The host's side -/

/-- R128 and R67, command by command, each with the STATUS the host has by then: HASH sends START with the message; then READ_STATUS, the
same again for as long as BUSY = 1; then READ_DIGEST if DONE = 1, or the report of the input-validation failure if ERR = 1. That it ends
with neither where DONE and ERR are both 0 is DEDUCED, log 9. -/
def Obligations.HashTransactionSequence : Prop :=
  ∀ op : StartOperand, ∃ afterStart afterPoll : List HostAction,
    (∀ s0 : Byte, hostNext s0 (HostLine.hash op).actions = .send (0x02 :: op.message) afterStart) ∧
    (∀ s1 : Byte, hostNext s1 afterStart = .send [0x03] afterPoll) ∧
    ∀ s2 : Byte,
      (s2.getLsbD 3 = true → hostNext s2 afterPoll = .send [0x03] afterPoll) ∧
      (s2.getLsbD 3 = false → s2.getLsbD 4 = true → hostNext s2 afterPoll = .send [0x04] []) ∧
      (s2.getLsbD 3 = false → s2.getLsbD 4 = false → s2.getLsbD 5 = true →
        hostNext s2 afterPoll = .report .inputValidationFailure []) ∧
      (s2.getLsbD 3 = false → s2.getLsbD 4 = false → s2.getLsbD 5 = false → hostNext s2 afterPoll = .finished)

/-- R128, for the host and the block together (log 9), from any phase in which no computation is under way and in any order of turns. HASH of
a message of at most MSG_CAP bytes records no fault and no refusal, reports nothing, and once the host has finished the last thing it has
been given is `SHA256(M)`; it finishes where it polls after the `2 + 67 N` core steps. HASH of a message of 2^61 bytes or more gives it no
digest, and once it has finished it has reported the input-validation failure, in ERROR; three turns of the host are enough. -/
def Obligations.HashTransactionReturnsTheDigest : Prop :=
  ∀ (s : State) (op : StartOperand), (s.phase = .idle ∨ s.phase = .finalized ∨ s.phase = .error) →
    (op.message.length ≤ s.cfg.msgCap.val →
      (∀ turns : List Turn, ∃ u h, hostRun turns s (HostRun.ofLines [.hash op]) = .next (u, h) ∧
        h.reports = [] ∧ u.faults = s.faults ∧ u.refused = s.refused ∧
        (h.todo = [] → ∃ d, sha256 op.message = some d ∧ u.responses.getLast? = some (.digest d))) ∧
      ∃ u, hostRun (.host :: List.replicate (2 + 67 * blockCount op.message) .core ++ [.host, .host]) s
        (HostRun.ofLines [.hash op]) = .next (u, { todo := [], reports := [] })) ∧
    (2 ^ 61 ≤ op.message.length →
      (∀ turns : List Turn, ∃ u h, hostRun turns s (HostRun.ofLines [.hash op]) = .next (u, h) ∧
        u.faults = s.faults ∧ u.refused = s.refused ∧
        (∀ d, Response.digest d ∈ u.responses → Response.digest d ∈ s.responses) ∧
        (h.todo = [] → h.reports = [.inputValidationFailure] ∧ u.phase = .error)) ∧
      ∃ u, hostRun [.host, .host, .host] s (HostRun.ofLines [.hash op]) =
        .next (u, { todo := [], reports := [.inputValidationFailure] }))

/-- R67, over every text operand, every payload in hexadecimal, every `rep` byte and count (decimal, hexadecimal or a power), each with or
without a label before it and a comment after it: the lines read as the commands they spell, with exactly the bytes R67 gives as payload, and
a blank line as nothing. (Where blanks may stand, how numbers are spelt and what a label is are the model's choice, log 10.) -/
def Obligations.HostProgramLinesRead : Prop :=
  ∀ label tail : List Char,
    (label = [] ∨ ∃ name : List Char, name ≠ [] ∧ (∀ c ∈ name, isNameChar c = true) ∧ label = name ++ ": ".toList) →
    (tail = [] ∨ ∃ comment : List Char, tail = " ;".toList ++ comment) →
    (∀ text : List Char, (∀ c ∈ text, c ≠ quoteChar ∧ c.toNat < 128) →
      readLine (label ++ ("START ".toList ++ quoteChar :: text ++ [quoteChar]) ++ tail) = .line (.start (.text text)) ∧
      readLine (label ++ ("HASH ".toList ++ quoteChar :: text ++ [quoteChar]) ++ tail) = .line (.hash (.text text)) ∧
      (StartOperand.text text).message = text.map fun c => BitVec.ofNat 8 c.toNat) ∧
    (∀ msg : Message, ∃ op : StartOperand,
      readLine (label ++ ("START hex:".toList ++ msg.flatMap hexByte) ++ tail) = .line (.start op) ∧
      readLine (label ++ ("HASH hex:".toList ++ msg.flatMap hexByte) ++ tail) = .line (.hash op) ∧ op.message = msg) ∧
    (∀ (b : Byte) (count : List Char) (n : Nat),
      ((∃ ds : List (Fin 10), ds ≠ [] ∧ count = ds.map (fun d => hexChar d.val) ∧ n = ds.foldl (fun acc d => 10 * acc + d.val) 0) ∨
        (∃ ds : List (Fin 16), ds ≠ [] ∧ count = "0x".toList ++ ds.map (fun d => hexChar d.val) ∧
          n = ds.foldl (fun acc d => 16 * acc + d.val) 0) ∨
        ∃ xs ys : List (Fin 10), xs ≠ [] ∧ ys ≠ [] ∧
          count = xs.map (fun d => hexChar d.val) ++ '^' :: ys.map (fun d => hexChar d.val) ∧
          n = xs.foldl (fun acc d => 10 * acc + d.val) 0 ^ ys.foldl (fun acc d => 10 * acc + d.val) 0) →
      readLine (label ++ ("START rep(0x".toList ++ hexByte b ++ ", ".toList ++ count ++ [')']) ++ tail) =
        .line (.start (.rep b n)) ∧
      readLine (label ++ ("HASH rep(0x".toList ++ hexByte b ++ ", ".toList ++ count ++ [')']) ++ tail) =
        .line (.hash (.rep b n)) ∧
      (StartOperand.rep b n).message = List.replicate n b) ∧
    readLine (label ++ "NOP".toList ++ tail) = .line .nop ∧ readLine (label ++ "RESET".toList ++ tail) = .line .reset ∧
    readLine (label ++ "READ_STATUS".toList ++ tail) = .line .readStatus ∧
    readLine (label ++ "READ_DIGEST".toList ++ tail) = .line .readDigest ∧
    readLine (label ++ "WAIT".toList ++ tail) = .line .wait ∧
    ∀ blanks : List Char, (∀ c ∈ blanks, isBlank c = true) → readLine (label ++ blanks ++ tail) = .empty

/-- R67's display form, with R116: 8 groups of 8 uppercase hexadecimal digits, separated by spaces, group `i` the digits of `H[i]` with the most
significant first. -/
def Obligations.DigestDisplayForm : Prop :=
  ∀ h : Vector Word 8,
    (displayDigest (digestBytes h)).length = 71 ∧
    (∀ (i k : Nat) (hi : i < 8) (_ : k < 8),
      (displayDigest (digestBytes h))[9 * i + k]? = "0123456789ABCDEF".toList[(h[i].extractLsb' (28 - 4 * k) 4).toNat]?) ∧
    ∀ i : Nat, i < 7 → (displayDigest (digestBytes h))[9 * i + 8]? = some ' '
end

