-- ==== Sys2Proof/Laws/State.lean ====
section
/-! SUPPORT. What each named update of State leaves in each field: one lemma per field per update. -/

namespace Sys2Proof.Machine

variable (s : State)

/-! ### `State.record`: recording a model fault -/

@[simp] theorem State.record_phase (f : ModelFault) : (s.record f).phase = s.phase := rfl
@[simp] theorem State.record_errcode (f : ModelFault) : (s.record f).errcode = s.errcode := rfl
@[simp] theorem State.record_M (f : ModelFault) : (s.record f).M = s.M := rfl
@[simp] theorem State.record_Mp (f : ModelFault) : (s.record f).Mp = s.Mp := rfl
@[simp] theorem State.record_N (f : ModelFault) : (s.record f).N = s.N := rfl
@[simp] theorem State.record_blk (f : ModelFault) : (s.record f).blk = s.blk := rfl
@[simp] theorem State.record_t (f : ModelFault) : (s.record f).t = s.t := rfl
@[simp] theorem State.record_H (f : ModelFault) : (s.record f).H = s.H := rfl
@[simp] theorem State.record_W (f : ModelFault) : (s.record f).W = s.W := rfl
@[simp] theorem State.record_work (f : ModelFault) : (s.record f).work = s.work := rfl
@[simp] theorem State.record_cfg (f : ModelFault) : (s.record f).cfg = s.cfg := rfl
@[simp] theorem State.record_faults (f : ModelFault) : (s.record f).faults = insertFault f s.faults := rfl
@[simp] theorem State.record_refused (f : ModelFault) : (s.record f).refused = s.refused := rfl
@[simp] theorem State.record_events (f : ModelFault) : (s.record f).events = s.events := rfl
@[simp] theorem State.record_responses (f : ModelFault) : (s.record f).responses = s.responses := rfl
@[simp] theorem State.record_notices (f : ModelFault) : (s.record f).notices = s.notices := rfl

/-! ### `State.respond`: responding to the host -/

@[simp] theorem State.respond_phase (r : Response) : (s.respond r).phase = s.phase := rfl
@[simp] theorem State.respond_errcode (r : Response) : (s.respond r).errcode = s.errcode := rfl
@[simp] theorem State.respond_M (r : Response) : (s.respond r).M = s.M := rfl
@[simp] theorem State.respond_Mp (r : Response) : (s.respond r).Mp = s.Mp := rfl
@[simp] theorem State.respond_N (r : Response) : (s.respond r).N = s.N := rfl
@[simp] theorem State.respond_blk (r : Response) : (s.respond r).blk = s.blk := rfl
@[simp] theorem State.respond_t (r : Response) : (s.respond r).t = s.t := rfl
@[simp] theorem State.respond_H (r : Response) : (s.respond r).H = s.H := rfl
@[simp] theorem State.respond_W (r : Response) : (s.respond r).W = s.W := rfl
@[simp] theorem State.respond_work (r : Response) : (s.respond r).work = s.work := rfl
@[simp] theorem State.respond_cfg (r : Response) : (s.respond r).cfg = s.cfg := rfl
@[simp] theorem State.respond_faults (r : Response) : (s.respond r).faults = s.faults := rfl
@[simp] theorem State.respond_refused (r : Response) : (s.respond r).refused = s.refused := rfl
@[simp] theorem State.respond_events (r : Response) : (s.respond r).events = s.events := rfl
@[simp] theorem State.respond_responses (r : Response) : (s.respond r).responses = s.responses ++ [r] := rfl
@[simp] theorem State.respond_notices (r : Response) : (s.respond r).notices = s.notices := rfl

/-! ### `State.discardAll`: discarding the data registers -/

@[simp] theorem State.discardAll_phase : s.discardAll.phase = s.phase := rfl
@[simp] theorem State.discardAll_errcode : s.discardAll.errcode = s.errcode := rfl
@[simp] theorem State.discardAll_M : s.discardAll.M = none := rfl
@[simp] theorem State.discardAll_Mp : s.discardAll.Mp = none := rfl
@[simp] theorem State.discardAll_N : s.discardAll.N = none := rfl
@[simp] theorem State.discardAll_blk : s.discardAll.blk = none := rfl
@[simp] theorem State.discardAll_t : s.discardAll.t = none := rfl
@[simp] theorem State.discardAll_H : s.discardAll.H = none := rfl
@[simp] theorem State.discardAll_W : s.discardAll.W = none := rfl
@[simp] theorem State.discardAll_work : s.discardAll.work = none := rfl
@[simp] theorem State.discardAll_cfg : s.discardAll.cfg = s.cfg := rfl
@[simp] theorem State.discardAll_faults : s.discardAll.faults = s.faults := rfl
@[simp] theorem State.discardAll_refused : s.discardAll.refused = s.refused := rfl
@[simp] theorem State.discardAll_events : s.discardAll.events = s.events := rfl
@[simp] theorem State.discardAll_responses : s.discardAll.responses = s.responses := rfl
@[simp] theorem State.discardAll_notices : s.discardAll.notices = s.notices := rfl

/-! ### `State.raiseInputTooLarge`: entering the architectural error -/

@[simp] theorem State.raiseInputTooLarge_phase (len : Nat) : (s.raiseInputTooLarge len).phase = .error := rfl
@[simp] theorem State.raiseInputTooLarge_errcode (len : Nat) : (s.raiseInputTooLarge len).errcode = 1 := rfl
@[simp] theorem State.raiseInputTooLarge_M (len : Nat) : (s.raiseInputTooLarge len).M = none := rfl
@[simp] theorem State.raiseInputTooLarge_Mp (len : Nat) : (s.raiseInputTooLarge len).Mp = none := rfl
@[simp] theorem State.raiseInputTooLarge_N (len : Nat) : (s.raiseInputTooLarge len).N = none := rfl
@[simp] theorem State.raiseInputTooLarge_blk (len : Nat) : (s.raiseInputTooLarge len).blk = none := rfl
@[simp] theorem State.raiseInputTooLarge_t (len : Nat) : (s.raiseInputTooLarge len).t = none := rfl
@[simp] theorem State.raiseInputTooLarge_H (len : Nat) : (s.raiseInputTooLarge len).H = none := rfl
@[simp] theorem State.raiseInputTooLarge_W (len : Nat) : (s.raiseInputTooLarge len).W = none := rfl
@[simp] theorem State.raiseInputTooLarge_work (len : Nat) : (s.raiseInputTooLarge len).work = none := rfl
@[simp] theorem State.raiseInputTooLarge_cfg (len : Nat) : (s.raiseInputTooLarge len).cfg = s.cfg := rfl
@[simp] theorem State.raiseInputTooLarge_faults (len : Nat) : (s.raiseInputTooLarge len).faults = s.faults := rfl
@[simp] theorem State.raiseInputTooLarge_refused (len : Nat) : (s.raiseInputTooLarge len).refused = s.refused := rfl
@[simp] theorem State.raiseInputTooLarge_events (len : Nat) : (s.raiseInputTooLarge len).events = s.events := rfl
@[simp] theorem State.raiseInputTooLarge_responses (len : Nat) : (s.raiseInputTooLarge len).responses = s.responses := rfl
@[simp] theorem State.raiseInputTooLarge_notices (len : Nat) : (s.raiseInputTooLarge len).notices = s.notices ++ [.inputTooLarge len] := rfl

/-! ### `State.refuseCapacity`: the capacity refusal -/

@[simp] theorem State.refuseCapacity_phase (len : Nat) : (s.refuseCapacity len).phase = s.phase := rfl
@[simp] theorem State.refuseCapacity_errcode (len : Nat) : (s.refuseCapacity len).errcode = s.errcode := rfl
@[simp] theorem State.refuseCapacity_M (len : Nat) : (s.refuseCapacity len).M = s.M := rfl
@[simp] theorem State.refuseCapacity_Mp (len : Nat) : (s.refuseCapacity len).Mp = s.Mp := rfl
@[simp] theorem State.refuseCapacity_N (len : Nat) : (s.refuseCapacity len).N = s.N := rfl
@[simp] theorem State.refuseCapacity_blk (len : Nat) : (s.refuseCapacity len).blk = s.blk := rfl
@[simp] theorem State.refuseCapacity_t (len : Nat) : (s.refuseCapacity len).t = s.t := rfl
@[simp] theorem State.refuseCapacity_H (len : Nat) : (s.refuseCapacity len).H = s.H := rfl
@[simp] theorem State.refuseCapacity_W (len : Nat) : (s.refuseCapacity len).W = s.W := rfl
@[simp] theorem State.refuseCapacity_work (len : Nat) : (s.refuseCapacity len).work = s.work := rfl
@[simp] theorem State.refuseCapacity_cfg (len : Nat) : (s.refuseCapacity len).cfg = s.cfg := rfl
@[simp] theorem State.refuseCapacity_faults (len : Nat) : (s.refuseCapacity len).faults = s.faults := rfl
@[simp] theorem State.refuseCapacity_refused (len : Nat) : (s.refuseCapacity len).refused = true := rfl
@[simp] theorem State.refuseCapacity_events (len : Nat) : (s.refuseCapacity len).events = s.events := rfl
@[simp] theorem State.refuseCapacity_responses (len : Nat) : (s.refuseCapacity len).responses = s.responses := rfl
@[simp] theorem State.refuseCapacity_notices (len : Nat) : (s.refuseCapacity len).notices = s.notices ++ [.refCapacity len] := rfl

/-! ### `State.toIdle`: RESET's effect -/

@[simp] theorem State.toIdle_phase : s.toIdle.phase = .idle := rfl
@[simp] theorem State.toIdle_errcode : s.toIdle.errcode = 0 := rfl
@[simp] theorem State.toIdle_M : s.toIdle.M = none := rfl
@[simp] theorem State.toIdle_Mp : s.toIdle.Mp = none := rfl
@[simp] theorem State.toIdle_N : s.toIdle.N = none := rfl
@[simp] theorem State.toIdle_blk : s.toIdle.blk = none := rfl
@[simp] theorem State.toIdle_t : s.toIdle.t = none := rfl
@[simp] theorem State.toIdle_H : s.toIdle.H = none := rfl
@[simp] theorem State.toIdle_W : s.toIdle.W = none := rfl
@[simp] theorem State.toIdle_work : s.toIdle.work = none := rfl
@[simp] theorem State.toIdle_cfg : s.toIdle.cfg = s.cfg := rfl
@[simp] theorem State.toIdle_faults : s.toIdle.faults = s.faults := rfl
@[simp] theorem State.toIdle_refused : s.toIdle.refused = s.refused := rfl
@[simp] theorem State.toIdle_events : s.toIdle.events = s.events := rfl
@[simp] theorem State.toIdle_responses : s.toIdle.responses = s.responses := rfl
@[simp] theorem State.toIdle_notices : s.toIdle.notices = s.notices := rfl

/-! ### `State.accept`: an accepted START's effect -/

@[simp] theorem State.accept_phase (msg : Message) : (s.accept msg).phase = .start := rfl
@[simp] theorem State.accept_errcode (msg : Message) : (s.accept msg).errcode = 0 := rfl
@[simp] theorem State.accept_M (msg : Message) : (s.accept msg).M = some msg := rfl
@[simp] theorem State.accept_Mp (msg : Message) : (s.accept msg).Mp = none := rfl
@[simp] theorem State.accept_N (msg : Message) : (s.accept msg).N = none := rfl
@[simp] theorem State.accept_blk (msg : Message) : (s.accept msg).blk = none := rfl
@[simp] theorem State.accept_t (msg : Message) : (s.accept msg).t = none := rfl
@[simp] theorem State.accept_H (msg : Message) : (s.accept msg).H = none := rfl
@[simp] theorem State.accept_W (msg : Message) : (s.accept msg).W = none := rfl
@[simp] theorem State.accept_work (msg : Message) : (s.accept msg).work = none := rfl
@[simp] theorem State.accept_cfg (msg : Message) : (s.accept msg).cfg = s.cfg := rfl
@[simp] theorem State.accept_faults (msg : Message) : (s.accept msg).faults = s.faults := rfl
@[simp] theorem State.accept_refused (msg : Message) : (s.accept msg).refused = s.refused := rfl
@[simp] theorem State.accept_events (msg : Message) : (s.accept msg).events = s.events := rfl
@[simp] theorem State.accept_responses (msg : Message) : (s.accept msg).responses = s.responses := rfl
@[simp] theorem State.accept_notices (msg : Message) : (s.accept msg).notices = s.notices := rfl

/-! ### `State.present`: presenting a command on the port -/

@[simp] theorem State.present_phase (bytes : List Byte) : (s.present bytes).phase = s.phase := rfl
@[simp] theorem State.present_errcode (bytes : List Byte) : (s.present bytes).errcode = s.errcode := rfl
@[simp] theorem State.present_M (bytes : List Byte) : (s.present bytes).M = s.M := rfl
@[simp] theorem State.present_Mp (bytes : List Byte) : (s.present bytes).Mp = s.Mp := rfl
@[simp] theorem State.present_N (bytes : List Byte) : (s.present bytes).N = s.N := rfl
@[simp] theorem State.present_blk (bytes : List Byte) : (s.present bytes).blk = s.blk := rfl
@[simp] theorem State.present_t (bytes : List Byte) : (s.present bytes).t = s.t := rfl
@[simp] theorem State.present_H (bytes : List Byte) : (s.present bytes).H = s.H := rfl
@[simp] theorem State.present_W (bytes : List Byte) : (s.present bytes).W = s.W := rfl
@[simp] theorem State.present_work (bytes : List Byte) : (s.present bytes).work = s.work := rfl
@[simp] theorem State.present_cfg (bytes : List Byte) : (s.present bytes).cfg = s.cfg := rfl
@[simp] theorem State.present_faults (bytes : List Byte) : (s.present bytes).faults = s.faults := rfl
@[simp] theorem State.present_refused (bytes : List Byte) : (s.present bytes).refused = s.refused := rfl
@[simp] theorem State.present_events (bytes : List Byte) : (s.present bytes).events = .host bytes :: s.events := rfl
@[simp] theorem State.present_responses (bytes : List Byte) : (s.present bytes).responses = s.responses := rfl
@[simp] theorem State.present_notices (bytes : List Byte) : (s.present bytes).notices = s.notices := rfl

end Sys2Proof.Machine
end

