-- ==== Sys2Proof/Laws/Ops.lean ====
section
/-! SUPPORT. What the shared operations can answer, once for each: reading a register, a guard, and the set of faults. -/

namespace Sys2Proof.Machine

variable {α : Type} {s u : State}

@[simp] theorem reading_some (v : α) (s : State) (k : α → Host.Outcome State Fault Refusal) :
    reading (some v) s k = k v := rfl

@[simp] theorem reading_none (s : State) (k : α → Host.Outcome State Fault Refusal) :
    reading none s k = .next (s.record .noValue) := rfl

/-- If reading a register answers `u`, the register held none and F_NO_VALUE is recorded, or it held a value and the rest answers `u`. -/
theorem reading_next {r : Option α} {k : α → Host.Outcome State Fault Refusal} (h : reading r s k = .next u) :
    r = none ∧ u = s.record .noValue ∨ ∃ v, r = some v ∧ k v = .next u := by
  cases r with
  | none => exact .inl ⟨rfl, by simpa using h.symm⟩
  | some v => exact .inr ⟨v, rfl, h⟩

@[simp] theorem guarded_true (k : Host.Outcome State Fault Refusal) : guarded true k = k := rfl

@[simp] theorem guarded_false (k : Host.Outcome State Fault Refusal) : guarded false k = .fault .stepNotEnabled := rfl

/-- If a guarded step answers `u`, it is enabled and its body answers `u`. -/
theorem guarded_next {p : Prop} [Decidable p] {k : Host.Outcome State Fault Refusal}
    (h : guarded (decide p) k = .next u) : p ∧ k = .next u := by
  by_cases hp : p
  · exact ⟨hp, by simpa [hp] using h⟩
  · simp [hp] at h

end Sys2Proof.Machine
end

