-- ==== Sys2Proof/Laws/Exec.lean ====
section
/-! SUPPORT. What each operation can do: if it answers a next state, one of these cases holds. Every invariant and frame is derived from
these, without unfolding a meaning again. -/

namespace Sys2Proof.Machine

variable {s u : State}

theorem execStart_next {msg : Message} (h : execStart msg s = .next u) :
    s.phase.busy = true ∧ u = s.record (.startBusy s.phase) ∨
    s.phase.busy = false ∧ lmax < msg.length ∧ u = s.raiseInputTooLarge msg.length ∨
    s.phase.busy = false ∧ msg.length ≤ lmax ∧ s.cfg.msgCap.val < msg.length ∧ u = s.refuseCapacity msg.length ∨
    s.phase.busy = false ∧ msg.length ≤ s.cfg.msgCap.val ∧ u = s.accept msg := by
  unfold execStart at h
  by_cases hb : s.phase.busy = true
  · exact .inl ⟨hb, by simpa [hb] using h.symm⟩
  · have hb' : s.phase.busy = false := by simpa using hb
    by_cases hl : msg.length > lmax
    · exact .inr (.inl ⟨hb', hl, by simpa [hb', hl] using h.symm⟩)
    · by_cases hc : msg.length > s.cfg.msgCap.val
      · exact .inr (.inr (.inl ⟨hb', by omega, hc, by simpa [hb', hl, hc] using h.symm⟩))
      · exact .inr (.inr (.inr ⟨hb', by omega, by simpa [hb', hl, hc] using h.symm⟩))

theorem execReadDigest_next (h : execReadDigest s = .next u) :
    s.phase = .finalized ∧ s.H = none ∧ u = s.record .noValue ∨
    (∃ d, s.phase = .finalized ∧ s.H = some d ∧ u = s.respond (.digest (digestBytes d))) ∨
    s.phase ≠ .finalized ∧ u = s.record (.digestNotReady s.phase) := by
  unfold execReadDigest at h
  by_cases hp : s.phase = .finalized
  · rw [if_pos hp] at h
    rcases reading_next h with ⟨hn, hu⟩ | ⟨d, hd, hu⟩
    · exact .inl ⟨hp, hn, hu⟩
    · exact .inr (.inl ⟨d, hp, hd, by simpa using hu.symm⟩)
  · exact .inr (.inr ⟨hp, by simpa [hp] using h.symm⟩)

theorem execPad_next (h : execPad s = .next u) :
    s.phase = .start ∧
      (s.M = none ∧ u = s.record .noValue ∨
       ∃ msg, s.M = some msg ∧ msg.length ≤ lmax ∧
         u = { s with Mp := some (Memory.ofBytes (padMessage msg)), N := some (BitVec.ofNat 56 (blockCount msg)),
                      blk := some 0, H := some ivRom, phase := .padded }) := by
  obtain ⟨hp, h⟩ := guarded_next h
  refine ⟨hp, ?_⟩
  rcases reading_next h with ⟨hn, hu⟩ | ⟨msg, hm, hu⟩
  · exact .inl ⟨hn, hu⟩
  · by_cases hl : msg.length ≤ lmax
    · exact .inr ⟨msg, hm, hl, by simpa [hl] using hu.symm⟩
    · simp [hl] at hu

theorem execExpand_next (h : execExpand s = .next u) :
    s.phase = .padded ∧
      ((s.blk = none ∨ s.N = none ∨ s.Mp = none) ∧ u = s.record .noValue ∨
       ∃ b n mp block, s.blk = some b ∧ s.N = some n ∧ b < n ∧ s.Mp = some mp ∧
         mp.readBytes (64 * b.toNat) 64 = some block ∧
         u = { s with W := some (expandBlock block), phase := .expand }) := by
  obtain ⟨hp, h⟩ := guarded_next h
  refine ⟨hp, ?_⟩
  rcases reading_next h with ⟨hn, hu⟩ | ⟨b, hb, h⟩
  · exact .inl ⟨.inl hn, hu⟩
  rcases reading_next h with ⟨hn, hu⟩ | ⟨n, hn, h⟩
  · exact .inl ⟨.inr (.inl hn), hu⟩
  obtain ⟨hlt, h⟩ := guarded_next h
  rcases reading_next h with ⟨hm, hu⟩ | ⟨mp, hm, h⟩
  · exact .inl ⟨.inr (.inr hm), hu⟩
  split at h
  · rename_i block hr
    exact .inr ⟨b, n, mp, block, hb, hn, hlt, hm, hr, by simpa using h.symm⟩
  · simp at h

theorem execFinalize_next (h : execFinalize s = .next u) :
    s.phase = .padded ∧
      ((s.blk = none ∨ s.N = none) ∧ u = s.record .noValue ∨
       ∃ n, s.blk = some n ∧ s.N = some n ∧
         u = { s with M := none, Mp := none, N := none, blk := none, phase := .finalized }) := by
  obtain ⟨hp, h⟩ := guarded_next h
  refine ⟨hp, ?_⟩
  rcases reading_next h with ⟨hn, hu⟩ | ⟨b, hb, h⟩
  · exact .inl ⟨.inl hn, hu⟩
  rcases reading_next h with ⟨hn, hu⟩ | ⟨n, hn, h⟩
  · exact .inl ⟨.inr hn, hu⟩
  obtain ⟨rfl, h⟩ := guarded_next h
  exact .inr ⟨b, hb, hn, by simpa using h.symm⟩

theorem execCinit_next (h : execCinit s = .next u) :
    s.phase = .expand ∧
      (s.H = none ∧ u = s.record .noValue ∨
       ∃ d, s.H = some d ∧ u = { s with work := some (Working.ofState d), t := some 0, phase := .compress }) := by
  obtain ⟨hp, h⟩ := guarded_next h
  refine ⟨hp, ?_⟩
  rcases reading_next h with ⟨hn, hu⟩ | ⟨d, hd, h⟩
  · exact .inl ⟨hn, hu⟩
  · exact .inr ⟨d, hd, by simpa using h.symm⟩

theorem execRound_next (h : execRound s = .next u) :
    s.phase = .compress ∧
      ((s.t = none ∨ s.work = none ∨ s.W = none) ∧ u = s.record .noValue ∨
       ∃ t r w, s.t = some t ∧ s.work = some r ∧ s.W = some w ∧ ∃ ht : t.toNat < 64,
         u = { s with work := some (roundStep kRom[t.toNat] w[t.toNat] r), t := some (t + 1) }) := by
  obtain ⟨hp, h⟩ := guarded_next h
  refine ⟨hp, ?_⟩
  rcases reading_next h with ⟨hn, hu⟩ | ⟨t, ht, h⟩
  · exact .inl ⟨.inl hn, hu⟩
  split at h
  · rename_i hlt
    rcases reading_next h with ⟨hn, hu⟩ | ⟨r, hr, h⟩
    · exact .inl ⟨.inr (.inl hn), hu⟩
    rcases reading_next h with ⟨hn, hu⟩ | ⟨w, hw, h⟩
    · exact .inl ⟨.inr (.inr hn), hu⟩
    exact .inr ⟨t, r, w, ht, hr, hw, hlt, by simpa using h.symm⟩
  · simp at h

theorem execCadd_next (h : execCadd s = .next u) :
    s.phase = .compress ∧
      ((s.t = none ∨ s.work = none ∨ s.H = none ∨ s.blk = none) ∧ u = s.record .noValue ∨
       ∃ r d b, s.t = some 64 ∧ s.work = some r ∧ s.H = some d ∧ s.blk = some b ∧
         u = { s with H := some (addBack d r), blk := some (b + 1), W := none, work := none, t := none,
                      phase := .padded }) := by
  obtain ⟨hp, h⟩ := guarded_next h
  refine ⟨hp, ?_⟩
  rcases reading_next h with ⟨hn, hu⟩ | ⟨t, ht, h⟩
  · exact .inl ⟨.inl hn, hu⟩
  obtain ⟨rfl, h⟩ := guarded_next h
  rcases reading_next h with ⟨hn, hu⟩ | ⟨r, hr, h⟩
  · exact .inl ⟨.inr (.inl hn), hu⟩
  rcases reading_next h with ⟨hn, hu⟩ | ⟨d, hd, h⟩
  · exact .inl ⟨.inr (.inr (.inl hn)), hu⟩
  rcases reading_next h with ⟨hn, hu⟩ | ⟨b, hb, h⟩
  · exact .inl ⟨.inr (.inr (.inr hn)), hu⟩
  exact .inr ⟨r, d, b, ht, hr, hd, hb, by simpa using h.symm⟩

/-- Everything an operation can do where it answers a next state: record one model fault, or its own effect. -/
inductive Effect (s : State) : Instr → State → Prop where
  | recorded (i : Instr) (f : ModelFault) (hf : f ≠ .phaseReserved) (hi : i.isHost = false → f = .noValue) :
      Effect s i (s.record f)
  | nop : Effect s .nop s
  | reset : Effect s .reset s.toIdle
  | tooLarge (msg : Message) (hb : s.phase.busy = false) (hl : lmax < msg.length) :
      Effect s (.start msg) (s.raiseInputTooLarge msg.length)
  | overCapacity (msg : Message) (hb : s.phase.busy = false) (hl : msg.length ≤ lmax) (hc : s.cfg.msgCap.val < msg.length) :
      Effect s (.start msg) (s.refuseCapacity msg.length)
  | accepted (msg : Message) (hb : s.phase.busy = false) (hc : msg.length ≤ s.cfg.msgCap.val) :
      Effect s (.start msg) (s.accept msg)
  | status : Effect s .readStatus (s.respond (.status (statusOf s)))
  | digest (h : Vector Word 8) (hp : s.phase = .finalized) (hh : s.H = some h) :
      Effect s .readDigest (s.respond (.digest (digestBytes h)))
  | padded (msg : Message) (hp : s.phase = .start) (hm : s.M = some msg) (hl : msg.length ≤ lmax) :
      Effect s .pad { s with Mp := some (Memory.ofBytes (padMessage msg)), N := some (BitVec.ofNat 56 (blockCount msg)),
                             blk := some 0, H := some ivRom, phase := .padded }
  | expanded (b n : BitVec 56) (mp : Memory) (block : Vector Byte 64) (hp : s.phase = .padded) (hb : s.blk = some b)
      (hn : s.N = some n) (hlt : b < n) (hm : s.Mp = some mp) (hr : mp.readBytes (64 * b.toNat) 64 = some block) :
      Effect s .expand { s with W := some (expandBlock block), phase := .expand }
  | finalized (n : BitVec 56) (hp : s.phase = .padded) (hb : s.blk = some n) (hn : s.N = some n) :
      Effect s .finalize { s with M := none, Mp := none, N := none, blk := none, phase := .finalized }
  | loaded (h : Vector Word 8) (hp : s.phase = .expand) (hh : s.H = some h) :
      Effect s .cinit { s with work := some (Working.ofState h), t := some 0, phase := .compress }
  | rounded (t : BitVec 7) (r : Working) (w : Vector Word 64) (hp : s.phase = .compress) (ht : s.t = some t)
      (hr : s.work = some r) (hw : s.W = some w) (hlt : t.toNat < 64) :
      Effect s .round { s with work := some (roundStep kRom[t.toNat] w[t.toNat] r), t := some (t + 1) }
  | added (r : Working) (h : Vector Word 8) (b : BitVec 56) (hp : s.phase = .compress) (ht : s.t = some 64)
      (hr : s.work = some r) (hh : s.H = some h) (hb : s.blk = some b) :
      Effect s .cadd { s with H := some (addBack h r), blk := some (b + 1), W := none, work := none, t := none,
                              phase := .padded }

/-- If `exec` answers a next state, it is one of these effects. -/
theorem exec_effect {i : Instr} (h : exec i s = .next u) : Effect s i u := by
  cases i with
  | nop => obtain rfl : s = u := by simpa [exec, execNop] using h
           exact .nop
  | reset => obtain rfl : s.toIdle = u := by simpa [exec, execReset] using h
             exact .reset
  | start msg =>
    rcases execStart_next h with ⟨-, rfl⟩ | ⟨hb, hl, rfl⟩ | ⟨hb, hl, hc, rfl⟩ | ⟨hb, hc, rfl⟩
    · exact .recorded _ _ (by simp) (by simp [Instr.isHost])
    · exact .tooLarge msg hb hl
    · exact .overCapacity msg hb hl hc
    · exact .accepted msg hb hc
  | readStatus => obtain rfl : s.respond (.status (statusOf s)) = u := by simpa [exec, execReadStatus] using h
                  exact .status
  | readDigest =>
    rcases execReadDigest_next h with ⟨-, -, rfl⟩ | ⟨d, hp, hd, rfl⟩ | ⟨-, rfl⟩
    · exact .recorded _ _ (by simp) (by simp)
    · exact .digest d hp hd
    · exact .recorded _ _ (by simp) (by simp [Instr.isHost])
  | reserved cmd => obtain rfl : s.record (.reservedCmd cmd) = u := by simpa [exec, execReserved] using h
                    exact .recorded _ _ (by simp) (by simp [Instr.isHost])
  | pad =>
    obtain ⟨hp, ⟨-, rfl⟩ | ⟨msg, hm, hl, rfl⟩⟩ := execPad_next h
    · exact .recorded _ _ (by simp) (by simp)
    · exact .padded msg hp hm hl
  | expand =>
    obtain ⟨hp, ⟨-, rfl⟩ | ⟨b, n, mp, block, hb, hn, hlt, hm, hr, rfl⟩⟩ := execExpand_next h
    · exact .recorded _ _ (by simp) (by simp)
    · exact .expanded b n mp block hp hb hn hlt hm hr
  | finalize =>
    obtain ⟨hp, ⟨-, rfl⟩ | ⟨n, hb, hn, rfl⟩⟩ := execFinalize_next h
    · exact .recorded _ _ (by simp) (by simp)
    · exact .finalized n hp hb hn
  | cinit =>
    obtain ⟨hp, ⟨-, rfl⟩ | ⟨d, hd, rfl⟩⟩ := execCinit_next h
    · exact .recorded _ _ (by simp) (by simp)
    · exact .loaded d hp hd
  | round =>
    obtain ⟨hp, ⟨-, rfl⟩ | ⟨t, r, w, ht, hr, hw, hlt, rfl⟩⟩ := execRound_next h
    · exact .recorded _ _ (by simp) (by simp)
    · exact .rounded t r w hp ht hr hw hlt
  | cadd =>
    obtain ⟨hp, ⟨-, rfl⟩ | ⟨r, d, b, ht, hr, hd, hb, rfl⟩⟩ := execCadd_next h
    · exact .recorded _ _ (by simp) (by simp)
    · exact .added r d b hp ht hr hd hb

/-- If a step answers `u`, it is the core's turn on the state with its event taken, or a decoded command on it. -/
theorem step_next (h : step s = .next u) :
    (∃ rest, (s.events = .core :: rest ∨ s.events = [] ∧ rest = []) ∧ coreTurn { s with events := rest } = .next u) ∨
    ∃ bytes rest i, s.events = .host bytes :: rest ∧ decode bytes = .ok i ∧ exec i { s with events := rest } = .next u := by
  unfold step nextEvent at h
  split at h
  · rename_i he
    refine .inl ⟨[], .inr ⟨he, rfl⟩, ?_⟩
    rwa [← he]
  · rename_i rest he
    exact .inl ⟨rest, .inl he, h⟩
  · rename_i bytes rest he
    unfold hostTurn at h
    split at h
    · rename_i i hi
      exact .inr ⟨bytes, rest, i, he, hi, h⟩
    · simp at h

/-- If the core's turn answers `u`, it waited, recorded a fault, or took the one selected step. -/
theorem coreTurn_next (h : coreTurn s = .next u) :
    (s.phase = .idle ∨ s.phase = .finalized ∨ s.phase = .error) ∧ u = s ∨
    s.phase = .reserved ∧ u = s.record .phaseReserved ∨
    (s.phase = .padded ∧ (s.blk = none ∨ s.N = none) ∨ s.phase = .compress ∧ s.t = none) ∧ u = s.record .noValue ∨
    ∃ i, selectStep s = .step i ∧ i.isHost = false ∧ exec i s = .next u := by
  unfold coreTurn selectStep at h
  unfold selectStep
  cases hp : s.phase <;> simp only [hp] at h ⊢
  case idle => exact .inl ⟨by simp, by simpa using h.symm⟩
  case finalized => exact .inl ⟨by simp, by simpa using h.symm⟩
  case error => exact .inl ⟨by simp, by simpa using h.symm⟩
  case reserved => exact .inr (.inl ⟨trivial, by simpa using h.symm⟩)
  case start => exact .inr (.inr (.inr ⟨.pad, rfl, rfl, h⟩))
  case expand => exact .inr (.inr (.inr ⟨.cinit, rfl, rfl, h⟩))
  case padded =>
    cases hb : s.blk with
    | none => exact .inr (.inr (.inl ⟨by simp, by simpa [hb] using h.symm⟩))
    | some b =>
      cases hn : s.N with
      | none => exact .inr (.inr (.inl ⟨by simp, by simpa [hb, hn] using h.symm⟩))
      | some n =>
        simp only [hb, hn] at h ⊢
        by_cases h1 : b < n
        · rw [if_pos h1] at h ⊢
          exact .inr (.inr (.inr ⟨.expand, rfl, rfl, h⟩))
        · rw [if_neg h1] at h ⊢
          by_cases h2 : b = n
          · rw [if_pos h2] at h ⊢
            exact .inr (.inr (.inr ⟨.finalize, rfl, rfl, h⟩))
          · rw [if_neg h2] at h; exact absurd h (by simp)
  case compress =>
    cases ht : s.t with
    | none => exact .inr (.inr (.inl ⟨by simp, by simpa [ht] using h.symm⟩))
    | some t =>
      simp only [ht] at h ⊢
      by_cases h1 : t < 64
      · rw [if_pos h1] at h ⊢
        exact .inr (.inr (.inr ⟨.round, rfl, rfl, h⟩))
      · rw [if_neg h1] at h ⊢
        by_cases h2 : t = 64
        · rw [if_pos h2] at h ⊢
          exact .inr (.inr (.inr ⟨.cadd, rfl, rfl, h⟩))
        · rw [if_neg h2] at h; exact absurd h (by simp)

end Sys2Proof.Machine
end

