-- ==== Sys2Proof/Laws/Memory.lean ====
section
/-! SUPPORT. Laws of the memory operations: laying bytes out gives the canonical form and reads back; a MemRead answers exactly where
every byte exists, and answers those bytes. -/

namespace Sys2Proof.Machine

theorem Memory.layout_keys (a : Nat) (bs : List Byte) : ∀ c ∈ Memory.layout a bs, a ≤ c.1 := by
  induction bs generalizing a with
  | nil => simp [Memory.layout]
  | cons b bs ih =>
    intro c hc
    rcases List.mem_cons.mp hc with rfl | hc
    · exact Nat.le_refl a
    · exact Nat.le_of_succ_le (ih (a + 1) c hc)

theorem Memory.layout_wf (a : Nat) (bs : List Byte) : Memory.wf (Memory.layout a bs) := by
  induction bs generalizing a with
  | nil => exact List.Pairwise.nil
  | cons b bs ih => exact List.Pairwise.cons (fun c hc => Memory.layout_keys (a + 1) bs c hc) (ih (a + 1))

/-- The one operation that makes a memory makes it in canonical form. -/
theorem Memory.ofBytes_wf (bs : List Byte) : Memory.wf (Memory.ofBytes bs) := Memory.layout_wf 0 bs

theorem Memory.read_layout (a x : Nat) (bs : List Byte) :
    Memory.read (Memory.layout a bs) (a + x) = bs[x]? := by
  induction bs generalizing a x with
  | nil => simp [Memory.layout, Memory.read]
  | cons b bs ih =>
    cases x with
    | zero => simp [Memory.layout, Memory.read]
    | succ x =>
      have h := ih (a + 1) x
      rw [show a + 1 + x = a + (x + 1) by omega] at h
      simp [Memory.layout, Memory.read, h]

/-- `Mp[x]` is byte `x` of the sequence it was made from, and no other address exists. -/
@[simp] theorem Memory.read_ofBytes (bs : List Byte) (x : Nat) : Memory.read (Memory.ofBytes bs) x = bs[x]? := by
  simpa [Memory.ofBytes] using Memory.read_layout 0 x bs

/-- A MemRead answers `v` exactly where each of its bytes is the byte at its address. -/
theorem Memory.readBytes_eq_some (m : Memory) (addr n : Nat) (v : Vector Byte n) :
    m.readBytes addr n = some v ↔ ∀ (j : Nat) (hj : j < n), Memory.read m (addr + j) = some v[j] := by
  induction n with
  | zero => simp [Memory.readBytes, Vector.eq_empty]
  | succ n ih =>
    have split : v = v.pop.push v[n] := by
      ext j hj
      by_cases h : j = n
      · subst h; simp
      · simp [show j < n by omega]
    constructor
    · intro h j hj
      unfold Memory.readBytes at h
      split at h
      · rename_i w b hw hb
        have hv : w.push b = v := by simpa using h
        by_cases hjn : j = n
        · subst hjn; simp [← hv, hb]
        · rw [(ih w).mp hw j (by omega)]
          simp [← hv, show j < n by omega]
      · simp at h
    · intro h
      have h1 : m.readBytes addr n = some v.pop := by
        refine (ih v.pop).mpr fun j hj => ?_
        rw [h j (by omega)]; simp
      have h2 := h n (by omega)
      unfold Memory.readBytes
      rw [h1, h2]
      exact congrArg some split.symm

/-- A MemRead of bytes that all exist answers (R12). -/
theorem Memory.readBytes_isSome (m : Memory) (addr n : Nat)
    (h : ∀ j, j < n → (Memory.read m (addr + j)).isSome) : (m.readBytes addr n).isSome := by
  induction n with
  | zero => rfl
  | succ n ih =>
    obtain ⟨v, hv⟩ := Option.isSome_iff_exists.mp (ih fun j hj => h j (by omega))
    obtain ⟨b, hb⟩ := Option.isSome_iff_exists.mp (h n (by omega))
    simp [Memory.readBytes, hv, hb]

/-- A MemRead within a memory made from bytes answers. -/
theorem Memory.readBytes_ofBytes_isSome (bs : List Byte) (addr n : Nat) (h : addr + n ≤ bs.length) :
    ((Memory.ofBytes bs).readBytes addr n).isSome := by
  refine Memory.readBytes_isSome _ _ _ fun j hj => ?_
  rw [Memory.read_ofBytes, List.getElem?_eq_getElem (by omega)]
  rfl

end Sys2Proof.Machine
end

