-- ==== Sys2Proof/Laws/Hash.lean ====
section
/-! SUPPORT. The unfolding lemmas of the hash function's definitions: the rounds of a block, the digest state after a block, and the
schedule's words. -/

namespace Sys2Proof.Machine

theorem roundsUpTo_zero (w : Vector Word 64) (r : Working) : roundsUpTo w r 0 (Nat.zero_le 64) = r := rfl

theorem roundsUpTo_succ (w : Vector Word 64) (r : Working) (n : Nat) (h : n + 1 ≤ 64) :
    roundsUpTo w r (n + 1) h = roundStep kRom[n] w[n] (roundsUpTo w r n (by omega)) := rfl

/-- Equal round counts, whatever their spelling, give equal registers. -/
theorem roundsUpTo_congr (w : Vector Word 64) (r : Working) {m n : Nat} (h : m = n) (hm : m ≤ 64) (hn : n ≤ 64) :
    roundsUpTo w r m hm = roundsUpTo w r n hn := by
  subst h
  rfl

theorem stateAfter_zero (msg : Message) : stateAfter msg 0 = ivRom := rfl

theorem stateAfter_succ {msg : Message} {n : Nat} {block : Vector Byte 64} (h : blockAt msg n = some block) :
    stateAfter msg (n + 1) = compressBlock (stateAfter msg n) (expandBlock block) := by
  simp [stateAfter, h]

theorem expandBlock_eq (block : Vector Byte 64) : expandBlock block = extendWords (messageWords block) 48 := by
  unfold expandBlock
  rfl

theorem compressBlock_eq (h : Vector Word 8) (w : Vector Word 64) :
    compressBlock h w = addBack h (roundsUpTo w (Working.ofState h) 64 (Nat.le_refl 64)) := by
  unfold compressBlock
  rfl

theorem blockAt_eq (msg : Message) (i : Nat) :
    blockAt msg i = (Memory.ofBytes (padMessage msg)).readBytes (64 * i) 64 := by
  unfold blockAt
  rfl

/-- The first 16 words stay the message words. -/
theorem extendWords_low (w : Vector Word 16) (k t : Nat) (h : t < 16) : (extendWords w k)[t] = w[t] := by
  induction k with
  | zero => rfl
  | succ k ih =>
    simp only [extendWords, Vector.getElem_push]
    rw [dif_pos (show t < 16 + k by omega)]
    exact ih

end Sys2Proof.Machine
end

