-- ==== Sys2Proof/Laws/Host.lean ====
section
/-! SUPPORT. What the host's side answers: a presented command, a move of the host, the STATUS it reads back, and a run beside the core. -/

namespace Sys2Proof.Machine

/-- A presented command is what the next step runs. -/
theorem step_present {bytes : List Byte} {i : Instr} (s : State) (h : decode bytes = .ok i) : step (s.present bytes) = exec i s := by
  simp [step, nextEvent, State.present, hostTurn, h]

@[simp] theorem lastStatus_append_status (rs : List Response) (v : Byte) : lastStatus (rs ++ [.status v]) = v := by
  simp [lastStatus]

/-- BUSY, DONE and ERR as the host reads them in the STATUS of a state. -/
theorem statusOf_bits (s : State) :
    statusBusy (statusOf s) = s.phase.busy ∧ statusDone (statusOf s) = s.phase.done ∧ statusErr (statusOf s) = s.phase.err := by
  have key : ∀ (p : Phase) (e : Fin 4),
      let b : Byte := ((BitVec.ofFin e : BitVec 2).setWidth 8 <<< 6) ||| ((BitVec.ofBool p.err).setWidth 8 <<< 5)
        ||| ((BitVec.ofBool p.done).setWidth 8 <<< 4) ||| ((BitVec.ofBool p.busy).setWidth 8 <<< 3) ||| p.code.setWidth 8
      statusBusy b = p.busy ∧ statusDone b = p.done ∧ statusErr b = p.err := by
    intro p
    cases p <;> decide
  exact key s.phase s.errcode.toFin

/-- A move of the host that sends a command. -/
theorem hostMove_send {s u : State} {h : HostRun} {bytes : List Byte} {rest : List HostAction} {i : Instr}
    (hn : hostNext (lastStatus s.responses) h.todo = .send bytes rest) (hd : decode bytes = .ok i) (hx : exec i s = .next u) :
    hostMove s h = .next (u, { h with todo := rest }) := by
  simp only [hostMove, hostDrive, hn, step_present s hd, hx]

/-- A move of the host that reports. -/
theorem hostMove_report {s : State} {h : HostRun} {what : HostReport} {rest : List HostAction}
    (hn : hostNext (lastStatus s.responses) h.todo = .report what rest) :
    hostMove s h = .next (s, { todo := rest, reports := h.reports ++ [what] }) := by
  simp only [hostMove, hostDrive, hn]

/-- What both kinds of turn keep, and never stop at, a run keeps. -/
theorem hostRun_keeps {Keeps : State → HostRun → Prop}
    (core : ∀ u h, Keeps u h → ∃ v, coreTurn u = .next v ∧ Keeps v h)
    (host : ∀ u h, Keeps u h → ∃ v h', hostMove u h = .next (v, h') ∧ Keeps v h') (turns : List Turn) :
    ∀ u h, Keeps u h → ∃ v h', hostRun turns u h = .next (v, h') ∧ Keeps v h' := by
  induction turns with
  | nil => exact fun u h k => ⟨u, h, rfl, k⟩
  | cons t turns ih =>
    intro u h k
    cases t with
    | core =>
      obtain ⟨v, hv, kv⟩ := core u h k
      simpa only [hostRun, hv] using ih v h kv
    | host =>
      obtain ⟨v, h', hv, kv⟩ := host u h k
      simpa only [hostRun, hv] using ih v h' kv

end Sys2Proof.Machine
end

