-- ==== Sys2Proof/Laws/PerInstr.lean ====
section
/-! SUPPORT. Per-instruction statements about the syntax. `CommandFormat`: a host command's bytes are one command byte followed by its
payload, and a core step has no bytes (30_encoding.md R54, R56, R65). -/

namespace Sys2Proof.Laws.CommandFormat

def Statement (i : Instr) : Prop :=
  match encode i with
  | some bytes => i.isHost = true ∧ ∃ cmd, bytes = cmd :: i.payload
  | none => i.isHost = false

theorem nop : Statement .nop := ⟨rfl, 0x00, rfl⟩
theorem reset : Statement .reset := ⟨rfl, 0x01, rfl⟩
theorem start (msg : Message) : Statement (.start msg) := ⟨rfl, 0x02, rfl⟩
theorem readStatus : Statement .readStatus := ⟨rfl, 0x03, rfl⟩
theorem readDigest : Statement .readDigest := ⟨rfl, 0x04, rfl⟩
theorem reserved (cmd : Byte) : Statement (.reserved cmd) := ⟨rfl, cmd, rfl⟩
theorem pad : Statement .pad := rfl
theorem expand : Statement .expand := rfl
theorem finalize : Statement .finalize := rfl
theorem cinit : Statement .cinit := rfl
theorem round : Statement .round := rfl
theorem cadd : Statement .cadd := rfl

end Sys2Proof.Laws.CommandFormat
end

