-- ==== Sys2Proof/Tests/Slice0.lean ====
section
/-! SUPPORT. Tests. Expected results are the spec's own: opcode encodings (30_encoding.md), the examples in the rules, and
95_test_vectors.md. The theorems named witness_* show, for each statement with hypotheses, values that meet them together. -/

namespace Sys2Proof.Tests

open Sys2Proof Sys2Proof.Machine

-- One proof after another: many closed computations at once would each hold a thread's stack.
set_option Elab.async false

/-! ### Well-formedness -/

/-- The one check of `Instr.wf`: a reserved verdict with a legal command's code (R62). -/
theorem test_wf_refuses_legal_code_as_reserved : (Instr.reserved 0x04).wf = false := by decide

theorem test_wf_accepts_first_reserved_code : (Instr.reserved 0x05).wf = true := by decide

theorem test_wf_accepts_empty_payload : (Instr.start []).wf = true := by decide

/-! ### Decoding: command words written bit by bit (R55), bit 7 first -/

theorem test_decode_nop : decodeTableWord 8 0b00000000 = some .nop := by decide
theorem test_decode_reset : decodeTableWord 8 0b00000001 = some .reset := by decide
theorem test_decode_start : decodeTableWord 8 0b00000010 = some (.start []) := by decide
theorem test_decode_readStatus : decodeTableWord 8 0b00000011 = some .readStatus := by decide
theorem test_decode_readDigest : decodeTableWord 8 0b00000100 = some .readDigest := by decide
theorem test_decode_reserved_low : decodeTableWord 8 0b00000101 = some (.reserved 0x05) := by decide
theorem test_decode_reserved_high : decodeTableWord 8 0b11111111 = some (.reserved 0xFF) := by decide

/-- 95_test_vectors.md P1, line 2: `02` + `61 62 63`. -/
theorem test_decode_start_abc : decode [0x02, 0x61, 0x62, 0x63] = .ok (.start [0x61, 0x62, 0x63]) := by decide

theorem test_decode_refuses_nothing : decode [] = .error .noCommand := by decide
theorem test_decode_refuses_payload : decode [0x03, 0x00] = .error (.unexpectedPayload 0x03) := by decide

/-- The bytes of a core step: none (R65). -/
theorem test_encode_core_steps :
    [Instr.pad, .expand, .finalize, .cinit, .round, .cadd].map encode = List.replicate 6 none := by decide

/-- Whether an operation answers a given next state. -/
def isNext (o : Host.Outcome State Fault Refusal) (t : State) : Bool :=
  match o with
  | .next u => decide (u = t)
  | .fault _ | .refused _ => false

theorem isNext_iff (o : Host.Outcome State Fault Refusal) (t : State) : isNext o t = true ↔ o = .next t := by
  cases o <;> simp [isNext]

/-- The command placed for the next step is the one the next step runs. -/
theorem test_withFetchWord_runs_reserved :
    step (State.reset.withFetchWord 8 0x05) = .next { State.reset with faults := [.reservedCmd 0x05] } := by
  simp only [← isNext_iff]
  decide +kernel

/-! ### States -/

/-- `b"abc"`. -/
def abc : Message := [0x61, 0x62, 0x63]

/-- `b"The quick brown fox jumps over the lazy dog"`. -/
def fox : Message := "The quick brown fox jumps over the lazy dog".toList.map fun c => BitVec.ofNat 8 c.toNat

/-- The 56-byte message of 95_test_vectors.md section 2.6. -/
def msg56 : Message :=
  "abcdbcdecdefdefgefghfghighijhijkijkljklmklmnlmnomnopnopq".toList.map fun c => BitVec.ofNat 8 c.toNat

/-- The state an operation answers, for one that answers a next state. -/
def after (i : Instr) (s : State) : State :=
  match exec i s with
  | .next u => u
  | .fault _ | .refused _ => s

def sStart : State := State.reset.accept abc

/-- `pad("abc")` (95_test_vectors.md section 2.1). -/
def abcPadded : List Byte := [0x61, 0x62, 0x63, 0x80] ++ List.replicate 59 0x00 ++ [0x18]

/-- The schedule of its single block (95_test_vectors.md section 2.4). -/
def abcSchedule : Vector Word 64 :=
  let row (ws : Vector Word 8) : Vector Word 8 := ws
  row #v[0x61626380, 0, 0, 0, 0, 0, 0, 0] ++
  row #v[0, 0, 0, 0, 0, 0, 0, 0x00000018] ++
  row #v[0x61626380, 0x000F0000, 0x7DA86405, 0x600003C6, 0x3E9D7B78, 0x0183FC00, 0x12DCBFDB, 0xE2E2C38E] ++
  row #v[0xC8215C1A, 0xB73679A2, 0xE5BC3909, 0x32663C5B, 0x9D209D67, 0xEC8726CB, 0x702138A4, 0xD3B7973B] ++
  row #v[0x93F5997F, 0x3B68BA73, 0xAFF4FFC1, 0xF10A5C62, 0x0A8B3996, 0x72AF830A, 0x9409E33E, 0x24641522] ++
  row #v[0x9F47BF94, 0xF0A64F5A, 0x3E246A79, 0x27333BA3, 0x0C4763F2, 0x840ABF27, 0x7A290D5D, 0x065C43DA] ++
  row #v[0xFB3E89CB, 0xCC7617DB, 0xB9E66C34, 0xA9993667, 0x84BADEDD, 0xC21462BC, 0x1487472C, 0xB20F7A99] ++
  row #v[0xEF57B9CD, 0xEBE6B238, 0x9FE3095E, 0x78BC8D4B, 0xA43FCF15, 0x668B2FF8, 0xEEABA2CC, 0x12B1EDEB]

/-- The initial constants as working registers (R99's example). -/
def regsIv : Working :=
  ⟨0x6A09E667, 0xBB67AE85, 0x3C6EF372, 0xA54FF53A, 0x510E527F, 0x9B05688C, 0x1F83D9AB, 0x5BE0CD19⟩

/-- The digest state of `"abc"` (R113's example). -/
def abcH : Vector Word 8 :=
  #v[0xBA7816BF, 0x8F01CFEA, 0x414140DE, 0x5DAE2223, 0xB00361A3, 0x96177A9C, 0xB410FF61, 0xF20015AD]

def sPadded : State :=
  { sStart with Mp := some (Memory.ofBytes abcPadded), N := some 1, blk := some 0, H := some ivRom, phase := .padded }

def sExpand : State := { sPadded with W := some abcSchedule, phase := .expand }

def sCompress : State := { sExpand with work := some regsIv, t := some 0, phase := .compress }

/-- The working registers after round 63 of `"abc"` (95_test_vectors.md section 2.5). -/
def regs63 : Working :=
  ⟨0x506E3058, 0xD39A2165, 0x04D24D6C, 0xB85E2CE9, 0x5EF50F24, 0xFB121210, 0x948D25B6, 0x961F4894⟩

/-- The same after round 62. -/
def regs62 : Working :=
  ⟨0xD39A2165, 0x04D24D6C, 0xB85E2CE9, 0xB6AE8FFF, 0xFB121210, 0x948D25B6, 0x961F4894, 0xB21BAD3D⟩

def sLast : State := { sCompress with t := some 64, work := some regs63 }

def sClosed : State := { sPadded with H := some abcH, blk := some 1 }

def sFinal : State := { State.reset with H := some abcH, phase := .finalized }

def sError : State := State.reset.raiseInputTooLarge (2 ^ 61)

/-- An implementation with `MSG_CAP` = 512 (95_test_vectors.md section 2.7). -/
def sCap512 : State := { State.reset with cfg := { msgCap := ⟨512, by decide⟩ } }

/-- The shortest message that is too large. -/
def tooLarge : Message := List.replicate (2 ^ 61) 0

/-- The longest legal message. -/
def longest : Message := List.replicate (2 ^ 61 - 1) 0

theorem tooLarge_length : tooLarge.length = 2 ^ 61 := List.length_replicate

theorem longest_length : longest.length = 2 ^ 61 - 1 := List.length_replicate

/-! ### Steps and commands (95_test_vectors.md sections 2.4, 2.5, 2.7; the rules' examples) -/

theorem test_nop_in_compress : exec .nop { sCompress with t := some 5 } = .next { sCompress with t := some 5 } := rfl

/-- RESET in COMPRESS at `t = 17`: STATUS 0x00, every data register none. -/
theorem test_reset_in_compress :
    (statusOf (after .reset { sCompress with t := some 17 }) = 0x00) ∧
      after .reset { sCompress with t := some 17 } = State.reset := by decide +kernel

theorem test_start_while_busy_with_too_large :
    exec (.start tooLarge) { sCompress with t := some 7 } =
      .next { sCompress with t := some 7, faults := [.startBusy .compress] } := by
  have hb : ({ sCompress with t := some 7 } : State).phase.busy = true := by decide +kernel
  have hp : sCompress.phase = .compress := by decide +kernel
  have hf : sCompress.faults = [] := by decide +kernel
  show execStart tooLarge _ = _
  unfold execStart
  split
  · simp [State.record, insertFault, hp, hf]
  · contradiction

/-- Accepted with STATUS 0x09, and refused above the capacity. -/
theorem test_start_accepts_and_refuses :
    exec (.start abc) State.reset = .next sStart ∧ statusOf sStart = 0x09 ∧
      exec (.start (List.replicate 1000 0)) sCap512 =
        .next { sCap512 with refused := true, notices := [.refCapacity 1000] } := by
  simp only [← isNext_iff]
  decide +kernel

theorem test_readStatus_idle : (after .readStatus State.reset).responses = [.status 0x00] := by decide +kernel
theorem test_readStatus_error : (after .readStatus sError).responses = [.status 0x66] := by decide +kernel

/-- The response of P1, line 4. -/
theorem test_readDigest_abc :
    (after .readDigest sFinal).responses =
      [.digest #v[0xBA, 0x78, 0x16, 0xBF, 0x8F, 0x01, 0xCF, 0xEA, 0x41, 0x41, 0x40, 0xDE, 0x5D, 0xAE, 0x22, 0x23,
                  0xB0, 0x03, 0x61, 0xA3, 0x96, 0x17, 0x7A, 0x9C, 0xB4, 0x10, 0xFF, 0x61, 0xF2, 0x00, 0x15, 0xAD]] := by
  decide +kernel

theorem test_readDigest_in_error : exec .readDigest sError = .next { sError with faults := [.digestNotReady .error] } := by
  simp only [← isNext_iff]
  decide +kernel

theorem test_reserved_keeps_state :
    exec (.reserved 0xFF) sPadded = .next { sPadded with faults := [.reservedCmd 0xFF] } := by
  simp only [← isNext_iff]
  decide +kernel

theorem test_pad_abc : exec .pad sStart = .next sPadded := by
  simp only [← isNext_iff]
  decide +kernel

/-- The buffer of `"abc"`, and the address past its end. -/
theorem test_pad_buffer_abc :
    [0, 2, 3, 4, 62, 63, 64].map sPadded.readMp =
      [some 0x61, some 0x63, some 0x80, some 0x00, some 0x00, some 0x18, none] := by decide +kernel

theorem test_expand_abc : exec .expand sPadded = .next sExpand := by
  simp only [← isNext_iff]
  decide +kernel

/-- R85: an all-0xFF block. -/
theorem test_expand_all_ones :
    ([15, 16, 17, 18, 19, 63].map fun j => (expandBlock (Vector.replicate 64 0xFF))[j]?) =
      [some 0xFFFFFFFF, some 0x203FFFFC, some 0x203FFFFC, some 0x20099BE4, some 0x20099BE4, some 0x4BCEAF09] := by
  decide +kernel

theorem test_cinit_abc : exec .cinit sExpand = .next sCompress := by
  simp only [← isNext_iff]
  decide +kernel

/-- Round 0 of `"abc"`. -/
theorem test_round_0_abc :
    (after .round sCompress).work =
      some ⟨0x5D6AEBCD, 0x6A09E667, 0xBB67AE85, 0x3C6EF372, 0xFA2A4622, 0x510E527F, 0x9B05688C, 0x1F83D9AB⟩ := by
  decide +kernel

/-- Round 63 of `"abc"`, from the registers after round 62. -/
theorem test_round_63_abc :
    (after .round { sCompress with t := some 63, work := some regs62 }).work = some regs63 := by decide +kernel

/-- The additions for `i` = 1, 3 and 5 wrap. -/
theorem test_cadd_abc : exec .cadd sLast = .next sClosed := by
  simp only [← isNext_iff]
  decide +kernel

theorem test_finalize_abc : exec .finalize sClosed = .next sFinal ∧ statusOf sFinal = 0x15 := by
  simp only [← isNext_iff]
  decide +kernel

/-! ### Word functions and padding (95_test_vectors.md sections 2.1 to 2.3) -/

theorem test_rotr :
    rotr 0x00000001 7 = 0x02000000 ∧ rotr 0x80000000 25 = 0x00000040 ∧ rotr 0x12345678 2 = 0x048D159E := by decide

theorem test_sigmas :
    smallSigma0 0x61626380 = 0x940E90EF ∧ smallSigma1 0x61626380 = 0x7DA86405 ∧
      bigSigma0 0x61626380 = 0x8DD59276 ∧ bigSigma1 0x61626380 = 0xC0B865F2 ∧
      smallSigma0 0x12345678 = 0xE7FCE6EE ∧ smallSigma1 0x12345678 = 0xA1F78649 ∧
      bigSigma0 0x12345678 = 0x66146474 ∧ bigSigma1 0x12345678 = 0x3561ABDA := by decide

theorem test_choice_majority :
    choice 0xFFFFFFFF 0x12345678 0x9ABCDEF0 = 0x12345678 ∧ majority 0xFFFFFFFF 0x12345678 0x9ABCDEF0 = 0x9ABCDEF8 ∧
      choice 0x00000000 0x12345678 0x9ABCDEF0 = 0x9ABCDEF0 ∧ majority 0x00000000 0x12345678 0x9ABCDEF0 = 0x12345670 := by
  decide

/-- The block counts of the table by `L`. -/
theorem test_block_counts :
    ([0, 1, 3, 55, 56, 57, 63, 64, 65, 119, 120, 127, 128, 1000].map fun n => blockCount (List.replicate n 0)) =
      [1, 1, 1, 1, 2, 2, 2, 2, 2, 2, 3, 3, 3, 16] := by decide +kernel

/-- The zero counts, to the longest legal length. -/
theorem test_zero_counts :
    [0, 1, 3, 55, 56, 57, 63, 64, 65, 119, 120, 127, 128, 1000, 2 ^ 61 - 1].map zeroCount =
      [55, 54, 52, 0, 63, 62, 56, 55, 54, 0, 63, 56, 55, 15, 56] := by decide

theorem test_length_field_of_longest :
    bytes64 (8 * (2 ^ 61 - 1)) = [0xFF, 0xFF, 0xFF, 0xFF, 0xFF, 0xFF, 0xFF, 0xF8] := by decide

/-! ### The hash function (95_test_vectors.md sections 1 and 2.6) -/

theorem test_sha256_empty :
    (sha256 []).map displayDigest =
      some "E3B0C442 98FC1C14 9AFBF4C8 996FB924 27AE41E4 649B934C A495991B 7852B855".toList := by decide +kernel

theorem test_sha256_fox :
    (sha256 fox).map displayDigest =
      some "D7A8FBB3 07D78094 69CA9ABC B0082E4F 8D5651E4 6D3CDB76 2D02D0BF 37C9E592".toList := by decide +kernel

/-- A message of two blocks. -/
theorem test_sha256_two_blocks :
    (sha256 msg56).map displayDigest =
      some "248D6A61 D20638B8 E5C02693 0C3E6039 A33CE459 64FF2167 F6ECEDD4 19DB06C1".toList := by decide +kernel

/-! ### The host program (R67) -/

/-- Program P1 of 95_test_vectors.md. -/
theorem test_read_program :
    readProgram ["RESET".toList, "START ".toList ++ quoteChar :: "abc".toList ++ [quoteChar], "WAIT ; poll".toList, [],
      "READ_DIGEST".toList] = some [.reset, .start (.text ['a', 'b', 'c']), .wait, .readDigest] := by decide +kernel

theorem test_operand_bytes :
    (StartOperand.text ['a', 'b', 'c']).message = abc ∧ (StartOperand.hex []).message = [] ∧
      (StartOperand.rep 0x61 56).message = List.replicate 56 0x61 := by decide

/-- R128, with STATUS 0x66. -/
theorem test_host_reports_failure : hostNext 0x66 [.repoll, .collect] = .report .inputValidationFailure [] := by decide

theorem test_read_program_refuses : readProgram ["NOP x".toList] = none := by decide +kernel

/-! ### Witnesses: the phase invariant and the hash invariant in every phase -/

/-- The phase invariant from facts that evaluate: the row of the phase, and the bounds of `blk` and `t`. -/
theorem phaseInv_of {s : State} (r : PhaseRow) (hr : s.phase.row = some r)
    (hm : s.M.isSome = r.m ∧ s.Mp.isSome = r.mp ∧ s.N.isSome = r.mp ∧ s.blk.isSome = r.blk ∧ s.H.isSome = r.h ∧
      s.W.isSome = r.w ∧ s.work.isSome = r.work ∧ s.t.isSome = r.work ∧ s.errcode = r.errcode)
    (hb : (s.blk.all fun b => s.N.all fun n => if s.phase = .padded then decide (b ≤ n) else decide (b < n)) = true)
    (ht : (s.t.all fun t => decide (t ≤ 64)) = true) : PhaseInv s := by
  refine ⟨⟨r, hr, hm⟩, fun b n h h' => ?_, fun t h => ?_⟩
  · rw [h, h'] at hb
    split <;> simp_all
  · rw [h] at ht
    simpa using ht

theorem witness_phaseInv_idle : PhaseInv State.reset :=
  phaseInv_of ⟨false, false, false, false, false, false, 0⟩ rfl (by decide +kernel) rfl rfl

theorem witness_phaseInv_start : PhaseInv sStart :=
  phaseInv_of ⟨true, false, false, false, false, false, 0⟩ rfl (by decide +kernel) rfl rfl

/-- PADDED at its bound, `blk = N`. -/
theorem witness_phaseInv_padded : PhaseInv sClosed :=
  phaseInv_of ⟨true, true, true, true, false, false, 0⟩ (by decide +kernel) (by decide +kernel) (by decide +kernel)
    (by decide +kernel)

theorem witness_phaseInv_expand : PhaseInv sExpand :=
  phaseInv_of ⟨true, true, true, true, true, false, 0⟩ (by decide +kernel) (by decide +kernel) (by decide +kernel)
    (by decide +kernel)

/-- COMPRESS at its bound, `t = 64`. -/
theorem witness_phaseInv_compress : PhaseInv sLast :=
  phaseInv_of ⟨true, true, true, true, true, true, 0⟩ (by decide +kernel) (by decide +kernel) (by decide +kernel)
    (by decide +kernel)

theorem witness_phaseInv_finalized : PhaseInv sFinal :=
  phaseInv_of ⟨false, false, false, true, false, false, 0⟩ (by decide +kernel) (by decide +kernel) (by decide +kernel)
    (by decide +kernel)

theorem witness_phaseInv_error : PhaseInv sError :=
  phaseInv_of ⟨false, false, false, false, false, false, 1⟩ rfl (by decide +kernel) rfl rfl

theorem witness_computing_start : Computing abc sStart := ⟨by decide +kernel, rfl⟩

theorem witness_computing_finalized : Computing abc sFinal := by
  refine ⟨by decide +kernel, ?_⟩
  rw [show sFinal.phase = .finalized by decide +kernel]
  show sFinal.H = some (stateAfter abc (blockCount abc))
  decide +kernel

/-- COMPRESS at `t = 64`: the spec's registers after round 63 are those the invariant asks for. -/
theorem witness_computing_compress : Computing abc sLast := by
  refine ⟨by decide +kernel, ?_⟩
  rw [show sLast.phase = .compress by decide +kernel]
  refine ⟨0, 64, abcSchedule, ?_, ?_, ?_, ?_, ?_, by decide, ?_⟩
  · simp only [AtBlock]
    decide +kernel
  all_goals decide +kernel

theorem witness_hashInv_start : HashInv sStart := ⟨witness_phaseInv_start, .inr (.inr ⟨abc, witness_computing_start⟩)⟩

theorem witness_hashInv_compress : HashInv sLast := ⟨witness_phaseInv_compress, .inr (.inr ⟨abc, witness_computing_compress⟩)⟩

/-! ### Witnesses: the hypotheses of each statement -/

theorem witness_PowerOnEqualsReset : exec .reset sLast = .next sLast.toIdle := rfl

theorem witness_StartChecksInOrder_busy : sPadded.phase = .padded ∧ sLast.phase = .compress ∧ sExpand.phase = .expand ∧
    sStart.phase = .start := by decide +kernel

theorem witness_StartChecksInOrder_tooLarge : State.reset.phase.busy = false ∧ 2 ^ 61 - 1 < tooLarge.length := by
  rw [tooLarge_length]
  decide

theorem witness_StartChecksInOrder_capacity :
    sCap512.phase.busy = false ∧ (List.replicate 513 (0 : Byte)).length ≤ 2 ^ 61 - 1 ∧
      sCap512.cfg.msgCap.val < (List.replicate 513 (0 : Byte)).length := by decide +kernel

theorem witness_StartChecksInOrder_accepted :
    State.reset.phase.busy = false ∧ longest.length ≤ State.reset.cfg.msgCap.val := by
  rw [longest_length]
  decide +kernel

theorem witness_ReadDigestOnlyWhenFinalized :
    sFinal.phase = .finalized ∧ (∃ h, sFinal.H = some h) ∧ sError.phase ≠ .finalized :=
  ⟨by decide +kernel, Option.isSome_iff_exists.mp (by decide +kernel), by decide +kernel⟩

theorem witness_ReadsAreRepeatable :
    sFinal.phase = .finalized ∧ sFinal.H.isSome ∧ exec .readDigest sFinal = .next (after .readDigest sFinal) ∧
      exec .readDigest (after .readDigest sFinal) = .next (after .readDigest (after .readDigest sFinal)) := by
  simp only [← isNext_iff]
  decide +kernel

theorem witness_PadBuildsTheBuffer_longest :
    (State.reset.accept longest).phase = .start ∧ (State.reset.accept longest).M = some longest ∧
      longest.length ≤ 2 ^ 61 - 1 := ⟨rfl, rfl, by rw [longest_length]⟩

theorem witness_ExpandComputesTheSchedule :
    sPadded.phase = .padded ∧ sPadded.blk = some 0 ∧ sPadded.N = some 1 ∧ (0 : BitVec 56) < 1 ∧
      sPadded.Mp = some (Memory.ofBytes abcPadded) ∧
      ∀ j, j < 64 → (Memory.ofBytes abcPadded).read (64 * (0 : BitVec 56).toNat + j) = some (abcPadded[j]!) := by
  decide +kernel

theorem witness_CinitLoadsTheWorkingRegisters : sExpand.phase = .expand ∧ sExpand.H = some ivRom ∧ sExpand.errcode = 0 := by
  decide +kernel

/-- The last round, `t = 63`. -/
theorem witness_RoundUpdatesTheWorkingRegisters :
    (63 : BitVec 7).toNat < 64 ∧ ({ sLast with t := some 63 } : State).phase = .compress ∧
      (∃ w, sLast.W = some w) ∧ sLast.work = some regs63 :=
  ⟨by decide, by decide +kernel, Option.isSome_iff_exists.mp (by decide +kernel), rfl⟩

theorem witness_CaddFoldsIntoTheDigestState :
    sLast.phase = .compress ∧ sLast.t = some 64 ∧ sLast.work = some regs63 ∧ sLast.H = some ivRom ∧ sLast.blk = some 0 ∧
      sLast.N = some 1 ∧ (0 : BitVec 56) < 1 := by
  decide +kernel

theorem witness_FinalizeKeepsTheDigestState : sClosed.phase = .padded ∧ sClosed.blk = some 1 ∧ sClosed.N = some 1 := by
  decide +kernel

/-- Amounts and indexes at the ends of their ranges, for the statements about word functions. -/
theorem witness_word_function_ranges :
    (0 < 1 ∧ 1 < 32 ∧ 0 < 32) ∧ (0 < 31 ∧ 31 < 32) ∧ (2 ^ 64 - 1 < 2 ^ 64) ∧ (63 < 64) ∧ 7 < 8 := by decide

theorem witness_PaddedMessageLayout :
    longest.length ≤ 2 ^ 61 - 1 ∧ (abc.length + 1 ≤ 4 ∧ 4 < abc.length + 1 + (119 - abc.length % 64) % 64) := by
  rw [longest_length]
  decide

theorem witness_PaddedLengthIsLeastMultiple : 64 ∣ 128 ∧ (List.replicate 56 (0 : Byte)).length + 9 ≤ 128 := by decide

theorem witness_OnlyStartRaisesInputTooLarge :
    2 ^ 61 ≤ tooLarge.length ∧ exec (.start tooLarge) State.reset = .next (State.reset.raiseInputTooLarge tooLarge.length) := by
  have h : tooLarge.length > lmax := by
    rw [tooLarge_length]
    decide
  have hb : State.reset.phase.busy = false := rfl
  refine ⟨Nat.le_of_eq tooLarge_length.symm, ?_⟩
  simp only [exec, execStart, hb, if_pos h]
  simp

theorem witness_CapacityRefusalSetsTheMark :
    State.reset.cfg.msgCap.val = 2 ^ 61 - 1 ∧ exec .nop State.reset = .next State.reset := ⟨by decide +kernel, rfl⟩

theorem witness_ErrorIsLeftByResetOrStart :
    sError.phase = .error ∧ abc.length ≤ sError.cfg.msgCap.val ∧
      step (sError.present [0x01]) = .next sError.toIdle ∧ sError.toIdle.phase ≠ .error := by
  simp only [← isNext_iff]
  decide +kernel

/-- A launch state in a phase, with nothing else set. -/
def bare (p : Phase) : State := { State.reset with phase := p }

theorem witness_MissingRegisterRecordsNoValue :
    (bare .start).M = none ∧ (bare .padded).blk = none ∧ ({ bare .padded with blk := some 0 } : State).N = none ∧
      ({ bare .padded with blk := some 0, N := some 1 } : State).Mp = none ∧ (bare .expand).H = none ∧
      (bare .compress).t = none ∧ ({ bare .compress with t := some 63 } : State).W = none ∧
      ({ bare .compress with t := some 64 } : State).work = none ∧ (bare .finalized).H = none := by decide +kernel

theorem witness_ReservedPhaseIsNeverWritten :
    (bare .reserved).phase = .reserved ∧ exec .nop (bare .reserved) = .next (bare .reserved) := ⟨rfl, rfl⟩

theorem witness_FaultsChangeNothingElse :
    (after (.reserved 0x05) State.reset).faults ≠ State.reset.faults ∧
      coreTurn (bare .reserved) = .next { bare .reserved with faults := [.phaseReserved] } := by
  simp only [← isNext_iff]
  decide +kernel

theorem witness_BookkeepingOnlyGrows :
    step (State.reset.present [0x05]) = .next { State.reset with faults := [.reservedCmd 0x05] } ∧
      exec .readStatus State.reset = .next (after .readStatus State.reset) ∧
      exec .readStatus { State.reset with faults := [.noValue], refused := true } =
        .next (after .readStatus { State.reset with faults := [.noValue], refused := true }) := by
  simp only [← isNext_iff]
  decide +kernel

theorem witness_NamedStops_counters :
    ({ bare .padded with blk := some 1, N := some 1 } : State).phase = .padded ∧ (1 : BitVec 56) ≤ 1 ∧
      (2 : BitVec 56) ≠ 1 ∧ (1 : BitVec 56) < 2 ∧ (64 : BitVec 7) ≤ 64 ∧ (65 : BitVec 7) ≠ 64 ∧ (64 : BitVec 7) < 65 := by
  decide +kernel

theorem witness_NamedStops_memory :
    (0 : BitVec 56) < 1 ∧ Memory.read (Memory.ofBytes []) (64 * (0 : BitVec 56).toNat + 63) = none ∧
      2 ^ 61 ≤ tooLarge.length := ⟨by decide, rfl, Nat.le_of_eq tooLarge_length.symm⟩

theorem witness_CoreTurnRunsTheSelectedStep :
    decode [0x00] = .ok .nop ∧ sStart.phase = .start ∧ sPadded.phase = .padded ∧ sPadded.blk = some 0 ∧
      sPadded.N = some 1 ∧ (0 : BitVec 56) < 1 ∧ sClosed.phase = .padded ∧ sClosed.blk = some 1 ∧ sClosed.N = some 1 ∧
      sExpand.phase = .expand ∧ sCompress.phase = .compress ∧ sCompress.t = some 0 ∧ (63 : BitVec 7) < 64 ∧
      sLast.t = some 64 ∧ sFinal.phase = .finalized ∧ (bare .reserved).phase = .reserved := by decide +kernel

theorem witness_StepGivesTheCoreItsTurn :
    ({ sPadded with events := [.core] } : State).events = .core :: [] ∧ sPadded.events = [] := by decide +kernel

theorem witness_StepRunsTheDecodedCommand :
    (State.reset.present [0x02, 0x61]).events = .host [0x02, 0x61] :: [] ∧ decode [0x02, 0x61] = .ok (.start [0x61]) := by
  decide +kernel

theorem witness_UndecodableBytesAreRefused :
    (State.reset.present []).events = .host [] :: [] ∧ (0x03 : Byte) ≠ 0x02 ∧
      (State.reset.present [0x03, 0x00]).events = .host (0x03 :: 0x00 :: []) :: [] := by decide +kernel

theorem witness_ExactlyOneCoreStepWhileBusy :
    PhaseInv sLast ∧ sLast.phase.busy = true ∧ PhaseInv State.reset ∧ State.reset.phase.busy = false :=
  ⟨witness_phaseInv_compress, by decide +kernel, witness_phaseInv_idle, rfl⟩

theorem witness_OnlyResetDisturbsAComputation :
    sLast.phase.busy = true ∧ (Instr.start abc).isHost = true ∧ Instr.start abc ≠ .reset := by decide +kernel

theorem witness_CommandCodesDecode : 5 ≤ (0x05 : Byte).toNat := by decide

theorem witness_PhaseInvariantIsKept : PhaseInv sLast ∧ step sLast = .next sClosed :=
  ⟨witness_phaseInv_compress, (isNext_iff _ _).mp (by decide +kernel)⟩

theorem witness_HashInvariantIsKept : HashInv sLast ∧ step sLast = .next sClosed := ⟨witness_hashInv_compress, (isNext_iff _ _).mp (by decide +kernel)⟩

theorem witness_MemoryFormIsKept : MemoryInv sStart ∧ step sStart = .next sPadded :=
  ⟨fun _ h => (by cases h), (isNext_iff _ _).mp (by decide +kernel)⟩

theorem witness_NoStepFaultsUnderTheInvariant : HashInv sLast ∧ Instr.readDigest.isHost = true :=
  ⟨witness_hashInv_compress, rfl⟩

theorem witness_EachCoreStepCountsDown :
    Computing abc sStart ∧ sStart.phase.busy = true ∧ Computing abc sLast ∧ sLast.phase.busy = true :=
  ⟨witness_computing_start, rfl, witness_computing_compress, by decide +kernel⟩

/-- 69 core turns for `"abc"`, with READ_STATUS before them. -/
theorem witness_StepMachineComputesSha256 :
    sStart.phase = .start ∧ sStart.M = some abc ∧ abc.length ≤ sStart.cfg.msgCap.val ∧
      NoReset (.host [0x03] :: List.replicate 68 .core) ∧
      coreTurns (.host [0x03] :: List.replicate 68 .core) + 1 = 2 + 67 * blockCount abc := by
  refine ⟨rfl, rfl, by decide +kernel, fun bytes h => ⟨.readStatus, ?_⟩, by decide +kernel⟩
  have hb : bytes = [0x03] := by simpa using h
  subst hb
  decide

theorem witness_BlockStepsComputeCompress :
    sExpand.phase = .expand ∧ sExpand.H = some ivRom ∧ sExpand.W.isSome ∧ sExpand.blk = some 0 ∧
      sExpand.N = some 1 ∧ (0 : BitVec 56) < 1 ∧ sExpand.events = [] := by
  decide +kernel

theorem witness_FaultedRunsNeverEndWell :
    Sys2Proof.core.run 0 { sFinal with faults := [.noValue] } = .next { sFinal with faults := [.noValue] } ∧
      ({ sFinal with faults := [.noValue] } : State).faults ≠ [] ∧ Ended sFinal :=
  ⟨rfl, by decide, .inl (by decide +kernel)⟩

/-- Writers of every register but ERRCODE. -/
theorem witness_WritersOfEachRegister :
    (after (.start abc) State.reset).phase ≠ State.reset.phase ∧ (after (.start abc) State.reset).M ≠ State.reset.M ∧
      sPadded.Mp ≠ sStart.Mp ∧ sPadded.N ≠ sStart.N ∧ sPadded.blk ≠ sStart.blk ∧ sPadded.H ≠ sStart.H ∧
      sExpand.W ≠ sPadded.W ∧ sCompress.work ≠ sExpand.work ∧ sCompress.t ≠ sExpand.t ∧
      exec .cadd sLast = .next sClosed ∧ sClosed.W ≠ sLast.W := by
  simp only [← isNext_iff]
  decide +kernel

/-- A writer of ERRCODE. -/
theorem witness_WritersOfEachRegister_errcode : exec .reset sError = .next sError.toIdle ∧ sError.toIdle.errcode ≠ sError.errcode :=
  ⟨rfl, by decide⟩

theorem witness_MessageBufferReadsAsBefore : exec .expand sPadded = .next sExpand ∧ sPadded.phase = .padded := by
  simp only [← isNext_iff]
  decide +kernel

theorem witness_ParametersAndBookkeepingFrame : exec .cadd sLast = .next sClosed ∧ Instr.cadd.isHost = false := by
  simp only [← isNext_iff]
  decide +kernel

theorem witness_HostObservesOnlyStatusAndDigest :
    exec .readStatus sLast = .next (after .readStatus sLast) ∧ exec .readStatus sCompress = .next (after .readStatus sCompress) ∧
      sLast.phase = sCompress.phase ∧ sLast.errcode = sCompress.errcode ∧ sLast.responses = sCompress.responses := by
  simp only [← isNext_iff]
  decide +kernel

theorem witness_InstancesAreIndependent :
    ∃ sys', System.step (System.reset 2) ⟨0, by decide⟩ = .next sys' ∧ State.reset ∈ (System.reset 2).insts :=
  ⟨System.reset 2, rfl, by simp [System.reset]⟩

/-- STATUS 0x09, 0x15, 0x66 and 0x00: busy, done, failed, and none of them. -/
theorem witness_HashTransactionSequence :
    (0x09 : Byte).getLsbD 3 = true ∧ ((0x15 : Byte).getLsbD 3 = false ∧ (0x15 : Byte).getLsbD 4 = true) ∧
      ((0x66 : Byte).getLsbD 3 = false ∧ (0x66 : Byte).getLsbD 4 = false ∧ (0x66 : Byte).getLsbD 5 = true) ∧
      ((0x00 : Byte).getLsbD 3 = false ∧ (0x00 : Byte).getLsbD 4 = false ∧ (0x00 : Byte).getLsbD 5 = false) := by decide

/-- A legal message, the longest legal one, and the shortest that is too large. -/
theorem witness_HashTransactionReturnsTheDigest :
    State.reset.phase = .idle ∧ (StartOperand.text ['a', 'b', 'c']).message.length ≤ State.reset.cfg.msgCap.val ∧
      (StartOperand.rep 0 (2 ^ 61 - 1)).message.length ≤ State.reset.cfg.msgCap.val ∧
      2 ^ 61 ≤ (StartOperand.rep 0 (2 ^ 61)).message.length := by
  refine ⟨rfl, by decide +kernel, ?_, Nat.le_of_eq List.length_replicate.symm⟩
  exact Nat.le_of_eq List.length_replicate

theorem witness_HostProgramLinesRead_text : ∀ c ∈ ['a', ';', ' '], c ≠ quoteChar ∧ c.toNat < 128 := by
  intro c hc
  fin_cases hc <;> exact ⟨by decide +kernel, by decide +kernel⟩

/-- A label, a comment, blanks, and the spec's own counts 56 and 2^61, with 0x38 beside them. -/
theorem witness_HostProgramLinesRead_forms :
    (∀ c ∈ ['l', 'p', '_', '1'], isNameChar c = true) ∧ "lp_1: ".toList = ['l', 'p', '_', '1'] ++ ": ".toList ∧
      " ;x".toList = " ;".toList ++ ['x'] ∧ (∀ c ∈ [' ', '\t'], isBlank c = true) ∧
      ("56".toList = ([5, 6] : List (Fin 10)).map (fun d => hexChar d.val) ∧
        56 = ([5, 6] : List (Fin 10)).foldl (fun acc d => 10 * acc + d.val) 0) ∧
      ("0x38".toList = "0x".toList ++ ([3, 8] : List (Fin 16)).map (fun d => hexChar d.val) ∧
        56 = ([3, 8] : List (Fin 16)).foldl (fun acc d => 16 * acc + d.val) 0) ∧
      ("2^61".toList = ([2] : List (Fin 10)).map (fun d => hexChar d.val) ++
        '^' :: ([6, 1] : List (Fin 10)).map (fun d => hexChar d.val)) := by
  refine ⟨?_, by decide +kernel, by decide +kernel, ?_, by decide +kernel, by decide +kernel, by decide +kernel⟩
  all_goals
    intro c hc
    fin_cases hc <;> decide +kernel

theorem witness_DigestDisplayForm : (7 < 8 ∧ 7 < 8) ∧ 6 < 7 := by decide

end Sys2Proof.Tests
end

section
/-! PROOFS. The scope's statements (00_scope.md): the rotation and the packing functions, and the frames of the message buffer, the
parameter and the bookkeeping. -/

namespace Sys2Proof.Machine

/-! ### The rotation (R10) -/

/-- `rotr` is the library's rotation of a word: the right shift supplies the bits that stay, the left shift those that come round. -/
theorem getLsbD_rotr (x : Word) {n i : Nat} (hn : n < 32) (hi : i < 32) :
    (rotr x n).getLsbD i = x.getLsbD ((i + n) % 32) := by
  have library : rotr x n = x.rotateRightAux n := rfl
  by_cases hin : i < 32 - n
  · have stays : (i + n) % 32 = n + i := by omega
    rw [library, BitVec.getLsbD_rotateRightAux_of_lt hin, stays]
  · have comesRound : (i + n) % 32 = i - (32 - n) := by omega
    rw [library, BitVec.getLsbD_rotateRightAux_of_ge (by omega), comesRound]
    simp [hi]

/-- Settles O16: `getLsbD_rotr`, which holds at `n = 0` too. -/
theorem rotrMovesBits : Obligations.RotrMovesBits :=
  fun x _ _ _ hn hi => getLsbD_rotr x hn hi

/-! ### Big-endian packing (R11) -/

/-- Appending bit vectors is positional in base `2 ^ v`. -/
theorem toNat_append_eq_add {w v : Nat} (x : BitVec w) (y : BitVec v) : (x ++ y).toNat = x.toNat * 2 ^ v + y.toNat := by
  rw [BitVec.toNat_append, ← Nat.shiftLeft_add_eq_or_of_lt y.isLt, Nat.shiftLeft_eq]

theorem be32_toNat (b0 b1 b2 b3 : Byte) :
    (be32 b0 b1 b2 b3).toNat = b0.toNat * 2 ^ 24 + b1.toNat * 2 ^ 16 + b2.toNat * 2 ^ 8 + b3.toNat := by
  simp only [be32, toNat_append_eq_add]
  omega

/-- A byte cut out of a word is a base-256 digit of it. -/
theorem toNat_extractLsb'_byte (w : Word) (lo : Nat) : (w.extractLsb' lo 8).toNat = w.toNat / 2 ^ lo % 256 := by
  rw [BitVec.extractLsb'_toNat, Nat.shiftRight_eq_div_pow]

/-- The byte at a place is the digit of `be32_toNat` there. -/
theorem bytes32_be32 (b0 b1 b2 b3 : Byte) : bytes32 (be32 b0 b1 b2 b3) = #v[b0, b1, b2, b3] := by
  have value := be32_toNat b0 b1 b2 b3
  generalize be32 b0 b1 b2 b3 = w at value
  have digit (lo : Nat) (b : Byte) (h : w.toNat / 2 ^ lo % 256 = b.toNat) : w.extractLsb' lo 8 = b :=
    BitVec.eq_of_toNat_eq ((toNat_extractLsb'_byte w lo).trans h)
  obtain rfl := digit 24 b0 (by omega)
  obtain rfl := digit 16 b1 (by omega)
  obtain rfl := digit 8 b2 (by omega)
  obtain rfl := digit 0 b3 (by omega)
  rfl

/-- A word is the number its four bytes are the digits of. -/
theorem be32_bytes32 (w : Word) : be32 (bytes32 w)[0] (bytes32 w)[1] (bytes32 w)[2] (bytes32 w)[3] = w := by
  change be32 (w.extractLsb' 24 8) (w.extractLsb' 16 8) (w.extractLsb' 8 8) (w.extractLsb' 0 8) = w
  apply BitVec.eq_of_toNat_eq
  simp only [be32_toNat, toNat_extractLsb'_byte]
  omega

@[simp] theorem byteOf_toNat (v lo : Nat) : (byteOf v lo).toNat = v / 2 ^ lo % 256 := by
  rw [byteOf, BitVec.toNat_ofNat]

theorem bytes64_length (v : Nat) : (bytes64 v).length = 8 := rfl

/-- Read as base-256 digits, the first most significant, `bytes64 v` is `v`. -/
theorem bytes64_foldl {v : Nat} (hv : v < 2 ^ 64) : (bytes64 v).foldl (fun acc b => 256 * acc + b.toNat) 0 = v := by
  simp only [bytes64, List.foldl_cons, List.foldl_nil, byteOf_toNat]
  omega

/-- Settles O19: `be32` and `bytes32` are inverse, and both packings are positional in base 256. -/
theorem packingIsBigEndian : Obligations.PackingIsBigEndian :=
  ⟨fun b0 b1 b2 b3 => ⟨be32_toNat b0 b1 b2 b3, bytes32_be32 b0 b1 b2 b3⟩, be32_bytes32,
    fun v hv => ⟨bytes64_length v, bytes64_foldl hv⟩⟩

section Frames

variable {s u : State} {i : Instr}

/-! ### The message buffer (R12, R21, R47) -/

/-- Only PAD in START, RESET, START outside the busy phases and FINALIZE write the message buffer. -/
theorem Effect.Mp_eq (h : Effect s i u) :
    u.Mp = s.Mp ∨ i = .pad ∧ s.phase = .start ∨ i = .reset ∨ (∃ m, i = .start m) ∧ s.phase.busy = false ∨ i = .finalize := by
  cases h <;> simp [*]

/-- An address of the buffer reads by `Mp` alone. -/
theorem State.readMp_congr (h : u.Mp = s.Mp) (a : Nat) : u.readMp a = s.readMp a := by
  rw [State.readMp, State.readMp, h]

/-! ### The parameter and the bookkeeping (R6, R30, R64) -/

theorem Effect.cfg_eq (h : Effect s i u) : u.cfg = s.cfg := by
  cases h <;> rfl

theorem Effect.events_eq (h : Effect s i u) : u.events = s.events := by
  cases h <;> rfl

theorem Effect.responses_eq (h : Effect s i u) : u.responses = s.responses ∨ i = .readStatus ∨ i = .readDigest := by
  cases h <;> simp

theorem Effect.refused_notices_eq (h : Effect s i u) :
    u.refused = s.refused ∧ u.notices = s.notices ∨ ∃ m, i = .start m := by
  cases h <;> simp

/-- Faults change by the one recorded fault; for a core step it is F_NO_VALUE. -/
theorem Effect.faults_eq (h : Effect s i u) :
    u.faults = s.faults ∨ ∃ f, u.faults = insertFault f s.faults ∧ (i.isHost = false → f = .noValue) := by
  cases h with
  | recorded _ f _ hi => exact .inr ⟨f, rfl, hi⟩
  | _ => exact .inl rfl

@[simp] theorem exec_nop (s : State) : exec .nop s = .next s := rfl

@[simp] theorem exec_reset (s : State) : exec .reset s = .next s.toIdle := rfl

@[simp] theorem exec_readStatus (s : State) : exec .readStatus s = .next (s.respond (.status (statusOf s))) := rfl

/-- NOP, RESET and READ_STATUS have no branch that records a fault. -/
theorem exec_faults_eq_of_never_records (hi : i = .nop ∨ i = .reset ∨ i = .readStatus) (h : exec i s = .next u) :
    u.faults = s.faults := by
  obtain rfl | rfl | rfl := hi
  · obtain rfl : s = u := by simpa using h
    rfl
  · obtain rfl : s.toIdle = u := by simpa using h
    rfl
  · obtain rfl : s.respond (.status (statusOf s)) = u := by simpa using h
    rfl

end Frames

/-- Settles O51: each writer of `Mp` named by `Effect.Mp_eq` is excluded by an instruction premise, or by the phase. -/
theorem messageBufferReadsAsBefore : Obligations.MessageBufferReadsAsBefore := by
  intro i s u h
  obtain same | ⟨rfl, hstart⟩ | rfl | ⟨⟨m, rfl⟩, idle⟩ | rfl := (exec_effect h).Mp_eq
  · exact ⟨fun _ _ _ _ => State.readMp_congr same, fun _ _ _ => State.readMp_congr same⟩
  · exact ⟨fun hpad => absurd rfl hpad, fun _ _ hphase => by simp [hstart] at hphase⟩
  · exact ⟨fun _ hreset => absurd rfl hreset, fun hreset => absurd rfl hreset⟩
  · refine ⟨fun _ _ hm => absurd rfl (hm m), fun _ _ hphase => ?_⟩
    obtain hp | hp | hp := hphase <;> simp [hp, Phase.busy] at idle
  · exact ⟨fun _ _ _ hfin => absurd rfl hfin, fun _ hfin => absurd rfl hfin⟩

/-- Settles O52: one frame lemma for each field. -/
theorem parametersAndBookkeepingFrame : Obligations.ParametersAndBookkeepingFrame := by
  intro i s u h
  have effect := exec_effect h
  refine ⟨effect.cfg_eq, effect.events_eq, fun hstatus hdigest => ?_, fun hstart => ?_,
    fun hi => exec_faults_eq_of_never_records hi h, fun hcore => ?_⟩
  · exact effect.responses_eq.resolve_right (by simp [hstatus, hdigest])
  · exact effect.refused_notices_eq.resolve_right (by simp [hstart])
  · obtain same | ⟨f, hf, honly⟩ := effect.faults_eq
    · exact .inl same
    · exact .inr (by rw [hf, honly hcore])

end Sys2Proof.Machine
end

section
/-! PROOFS. The state's statements (10_state.md): the phase invariant, missing registers, the bookkeeping, the writers of each register,
what the host observes, and the independence of several blocks. -/

namespace Sys2Proof.Machine

variable {s u : State} {i : Instr}

/-! ### What a step keeps -/

/-- A step takes an event off the list and then does nothing, records a model fault, or has the effect of one operation; what all of
these keep, every step keeps. -/
theorem step_preserves {Keeps : State → Prop} (events : ∀ s rest, Keeps s → Keeps { s with events := rest })
    (record : ∀ s f, Keeps s → Keeps (s.record f)) (effect : ∀ {s u i}, Effect s i u → Keeps s → Keeps u)
    (h : step s = .next u) (hs : Keeps s) : Keeps u := by
  obtain ⟨rest, -, hcore⟩ | ⟨_, rest, _, -, -, hexec⟩ := step_next h
  · have taken := events s rest hs
    obtain ⟨-, rfl⟩ | ⟨-, rfl⟩ | ⟨-, rfl⟩ | ⟨_, -, -, hexec⟩ := coreTurn_next hcore
    · exact taken
    · exact record _ _ taken
    · exact record _ _ taken
    · exact effect (exec_effect hexec) taken
  · exact effect (exec_effect hexec) (events s rest hs)

/-! ### The phase invariant (R34) -/

/-- In a phase that has a row, the registers are those of the row. -/
theorem PhaseInv.row_matches {r : PhaseRow} (h : PhaseInv s) (hr : s.phase.row = some r) : r.Matches s := by
  obtain ⟨⟨r', hr', hm⟩, -⟩ := h
  obtain rfl : r' = r := by simpa [hr] using hr'.symm
  exact hm

theorem PhaseInv.counterBounds (h : PhaseInv s) : CounterBounds s := h.2

theorem PhaseInv.t_le (h : PhaseInv s) : ∀ t, s.t = some t → t ≤ 64 := h.2.2

theorem PhaseInv.blk_le {b n : BitVec 56} (h : PhaseInv s) (hp : s.phase = .padded) (hb : s.blk = some b) (hn : s.N = some n) :
    b ≤ n := by
  simpa [hp] using h.counterBounds.1 b n hb hn

theorem PhaseInv.blk_lt {b n : BitVec 56} (h : PhaseInv s) (hp : s.phase ≠ .padded) (hb : s.blk = some b) (hn : s.N = some n) :
    b < n := by
  simpa [hp] using h.counterBounds.1 b n hb hn

theorem counterBounds_of_blk_none (hb : s.blk = none) (ht : ∀ t, s.t = some t → t ≤ 64) : CounterBounds s :=
  ⟨fun b _ hb' => by simp [hb] at hb', ht⟩

theorem counterBounds_of_padded {b n : BitVec 56} (hp : s.phase = .padded) (hb : s.blk = some b) (hn : s.N = some n) (hle : b ≤ n)
    (ht : ∀ t, s.t = some t → t ≤ 64) : CounterBounds s := by
  refine ⟨fun b' n' hb' hn' => ?_, ht⟩
  obtain rfl : b = b' := by simpa [hb] using hb'
  obtain rfl : n = n' := by simpa [hn] using hn'
  simpa [hp] using hle

theorem counterBounds_of_blk_lt (hp : s.phase ≠ .padded) (hlt : ∀ b n, s.blk = some b → s.N = some n → b < n)
    (ht : ∀ t, s.t = some t → t ≤ 64) : CounterBounds s :=
  ⟨fun b n hb hn => by simpa [hp] using hlt b n hb hn, ht⟩

/-- Every operation keeps the phase invariant: each effect leads from its phase's row to the row of the next. -/
theorem Effect.phaseInv (e : Effect s i u) (h : PhaseInv s) : PhaseInv u := by
  cases e with
  | recorded | nop | overCapacity | status | digest => exact h
  | reset | tooLarge | accepted =>
    exact ⟨⟨_, rfl, by simp [PhaseRow.Matches]⟩, counterBounds_of_blk_none rfl (by simp)⟩
  | padded msg hp hm =>
    obtain ⟨hM, -, -, -, -, hW, hwork, ht, herr⟩ := h.row_matches (congrArg Phase.row hp)
    exact ⟨⟨_, rfl, hM, rfl, rfl, rfl, rfl, hW, hwork, ht, herr⟩,
      counterBounds_of_padded rfl rfl rfl (BitVec.le_def.mpr (Nat.zero_le _)) h.t_le⟩
  | expanded b n mp block hp hb hn hlt =>
    obtain ⟨hM, hMp, hN, hblk, hH, -, hwork, ht, herr⟩ := h.row_matches (congrArg Phase.row hp)
    refine ⟨⟨_, rfl, hM, hMp, hN, hblk, hH, rfl, hwork, ht, herr⟩,
      counterBounds_of_blk_lt (by simp) (fun b' n' hb' hn' => ?_) h.t_le⟩
    obtain rfl : b = b' := by simpa [hb] using hb'
    obtain rfl : n = n' := by simpa [hn] using hn'
    exact hlt
  | finalized n hp =>
    obtain ⟨-, -, -, -, hH, hW, hwork, ht, herr⟩ := h.row_matches (congrArg Phase.row hp)
    exact ⟨⟨_, rfl, rfl, rfl, rfl, rfl, hH, hW, hwork, ht, herr⟩, counterBounds_of_blk_none rfl h.t_le⟩
  | loaded d hp =>
    obtain ⟨hM, hMp, hN, hblk, hH, hW, -, -, herr⟩ := h.row_matches (congrArg Phase.row hp)
    exact ⟨⟨_, rfl, hM, hMp, hN, hblk, hH, hW, rfl, rfl, herr⟩,
      counterBounds_of_blk_lt (by simp) (fun _ _ => h.blk_lt (by simp [hp])) (by simp)⟩
  | rounded t r w hp ht hr hw hlt =>
    obtain ⟨hM, hMp, hN, hblk, hH, hW, -, -, herr⟩ := h.row_matches (congrArg Phase.row hp)
    have next_le : t + 1 ≤ 64 := by bv_omega
    exact ⟨⟨_, congrArg Phase.row hp, hM, hMp, hN, hblk, hH, hW, rfl, rfl, herr⟩,
      counterBounds_of_blk_lt (by simp [hp]) (fun _ _ => h.blk_lt (by simp [hp])) (by simpa using next_le)⟩
  | added r d b hp ht hr hh hb =>
    obtain ⟨hM, hMp, hN, -, -, -, -, -, herr⟩ := h.row_matches (congrArg Phase.row hp)
    obtain ⟨n, hn⟩ := Option.isSome_iff_exists.mp hN
    have hlt : b < n := h.blk_lt (by simp [hp]) hb hn
    have next_le : b + 1 ≤ n := by bv_omega
    exact ⟨⟨_, rfl, hM, hMp, hN, rfl, rfl, rfl, rfl, rfl, herr⟩, counterBounds_of_padded rfl rfl hn next_le (by simp)⟩

/-- Settles O40: taking an event and recording a fault leave the hardware state, and `Effect.phaseInv` is the rest. -/
theorem phaseInvariantIsKept : Obligations.PhaseInvariantIsKept :=
  fun _ _ hs h => step_preserves (fun _ _ hv => hv) (fun _ _ hv => hv) Effect.phaseInv h hs

/-- Settles O43: nothing holds a value at reset. -/
theorem resetMeetsTheInvariants : Obligations.ResetMeetsTheInvariants := by
  have phase : PhaseInv State.reset :=
    ⟨⟨_, rfl, by simp [PhaseRow.Matches, State.reset]⟩, counterBounds_of_blk_none rfl (by simp [State.reset])⟩
  exact ⟨phase, ⟨phase, .inl rfl⟩, fun _ h => by simp [State.reset] at h⟩

/-! ### Lengths and counters (R18, R22, R70, R73) -/

theorem padMessage_length (msg : Message) : (padMessage msg).length = msg.length + 9 + zeroCount msg.length := by
  simp [padMessage, bytes64_length]
  omega

/-- The padding fills up the last block, so the bytes are exactly `N` blocks. -/
theorem padMessage_length_eq_blocks (msg : Message) : (padMessage msg).length = 64 * blockCount msg := by
  rw [blockCount, padMessage_length, zeroCount]
  omega

theorem blockCount_eq (msg : Message) : blockCount msg = (msg.length + 8) / 64 + 1 := by
  rw [blockCount, padMessage_length, zeroCount]
  omega

theorem blockCount_le {msg : Message} (hl : msg.length ≤ lmax) : blockCount msg ≤ 2 ^ 55 + 1 := by
  rw [blockCount_eq]
  unfold lmax at hl
  omega

/-- The 56-bit register `N` holds the block count of every legal message. -/
theorem ofNat_blockCount_toNat {msg : Message} (hl : msg.length ≤ lmax) :
    (BitVec.ofNat 56 (blockCount msg)).toNat = blockCount msg := by
  have fits := blockCount_le hl
  rw [BitVec.toNat_ofNat, Nat.mod_eq_of_lt (by omega)]

/-- Settles O23: the block count is at most `(LMAX + 8) / 64 + 1`. -/
theorem countersAndLengthFit : Obligations.CountersAndLengthFit :=
  fun msg hl => ⟨by omega, blockCount_le hl, ofNat_blockCount_toNat hl⟩

/-! ### Missing registers (R15, R139): each step or command that reads one, in the phase that enables it -/

theorem exec_pad_noValue (hp : s.phase = .start) (hM : s.M = none) : exec .pad s = .next (s.record .noValue) := by
  simp [exec, execPad, hp, hM]

theorem exec_expand_noValue (hp : s.phase = .padded) (hr : s.blk = none ∨ s.N = none) :
    exec .expand s = .next (s.record .noValue) := by
  obtain hb | hn := hr
  · simp [exec, execExpand, hp, hb]
  · cases hb : s.blk <;> simp [exec, execExpand, hp, hb, hn]

theorem exec_expand_noValue_of_Mp {b n : BitVec 56} (hp : s.phase = .padded) (hb : s.blk = some b) (hn : s.N = some n) (hlt : b < n)
    (hM : s.Mp = none) : exec .expand s = .next (s.record .noValue) := by
  simp [exec, execExpand, hp, hb, hn, hlt, hM]

theorem exec_finalize_noValue (hp : s.phase = .padded) (hr : s.blk = none ∨ s.N = none) :
    exec .finalize s = .next (s.record .noValue) := by
  obtain hb | hn := hr
  · simp [exec, execFinalize, hp, hb]
  · cases hb : s.blk <;> simp [exec, execFinalize, hp, hb, hn]

theorem exec_cinit_noValue (hp : s.phase = .expand) (hH : s.H = none) : exec .cinit s = .next (s.record .noValue) := by
  simp [exec, execCinit, hp, hH]

theorem exec_round_noValue_of_t (hp : s.phase = .compress) (ht : s.t = none) : exec .round s = .next (s.record .noValue) := by
  simp [exec, execRound, hp, ht]

theorem exec_round_noValue {t : BitVec 7} (hp : s.phase = .compress) (ht : s.t = some t) (hlt : t.toNat < 64)
    (hr : s.work = none ∨ s.W = none) : exec .round s = .next (s.record .noValue) := by
  obtain hw | hW := hr
  · simp [exec, execRound, hp, ht, hlt, hw]
  · cases hw : s.work <;> simp [exec, execRound, hp, ht, hlt, hw, hW]

theorem exec_cadd_noValue_of_t (hp : s.phase = .compress) (ht : s.t = none) : exec .cadd s = .next (s.record .noValue) := by
  simp [exec, execCadd, hp, ht]

theorem exec_cadd_noValue (hp : s.phase = .compress) (ht : s.t = some 64) (hr : s.work = none ∨ s.H = none ∨ s.blk = none) :
    exec .cadd s = .next (s.record .noValue) := by
  cases hw : s.work with
  | none => simp [exec, execCadd, hp, ht, hw]
  | some r =>
    cases hH : s.H with
    | none => simp [exec, execCadd, hp, ht, hw, hH]
    | some h =>
      have hb : s.blk = none := by simpa [hw, hH] using hr
      simp [exec, execCadd, hp, ht, hw, hH, hb]

theorem exec_readDigest_noValue (hp : s.phase = .finalized) (hH : s.H = none) :
    exec .readDigest s = .next (s.record .noValue) := by
  simp [exec, execReadDigest, hp, hH]

theorem coreTurn_padded_noValue (hp : s.phase = .padded) (hr : s.blk = none ∨ s.N = none) :
    coreTurn s = .next (s.record .noValue) := by
  obtain hb | hn := hr
  · simp [coreTurn, selectStep, hp, hb]
  · simp [coreTurn, selectStep, hp, hn]

theorem coreTurn_compress_noValue (hp : s.phase = .compress) (ht : s.t = none) : coreTurn s = .next (s.record .noValue) := by
  simp [coreTurn, selectStep, hp, ht]

/-- Settles O27: one lemma for each reader; a fault recorded is `State.record`. -/
theorem missingRegisterRecordsNoValue : Obligations.MissingRegisterRecordsNoValue := fun _ =>
  ⟨exec_pad_noValue,
    fun hp hr => ⟨exec_expand_noValue hp hr, exec_finalize_noValue hp hr⟩,
    fun _ _ hp hb hn hlt hM => exec_expand_noValue_of_Mp hp hb hn hlt hM,
    exec_cinit_noValue,
    fun hp ht => ⟨exec_round_noValue_of_t hp ht, exec_cadd_noValue_of_t hp ht⟩,
    fun _ hp ht hlt hr => exec_round_noValue hp ht (BitVec.lt_def.mp hlt) hr,
    exec_cadd_noValue, exec_readDigest_noValue, coreTurn_padded_noValue, coreTurn_compress_noValue⟩

/-! ### What a command gives the host (R31, R64, R114) -/

/-- What an operation gives the host, from a state. -/
def replyTo (s : State) : Instr → Option Response
  | .readStatus => some (.status (statusOf s))
  | .readDigest => if s.phase = .finalized then s.H.map fun h => .digest (digestBytes h) else none
  | _ => none

/-- An operation adds its reply, if it has one, to what the host has been given. -/
theorem exec_responses (h : exec i s = .next u) : u.responses = s.responses ++ (replyTo s i).toList := by
  cases i with
  | readStatus =>
    obtain rfl : s.respond (.status (statusOf s)) = u := by simpa using h
    rfl
  | readDigest =>
    obtain ⟨hp, hH, rfl⟩ | ⟨d, hp, hH, rfl⟩ | ⟨hp, rfl⟩ := execReadDigest_next h <;> simp [replyTo, *]
  | _ => simpa [replyTo] using (exec_effect h).responses_eq

theorem statusOf_congr {s' : State} (hp : s.phase = s'.phase) (he : s.errcode = s'.errcode) : statusOf s = statusOf s' := by
  rw [statusOf, statusOf, hp, he]

theorem replyTo_congr {s' : State} (hp : s.phase = s'.phase) (he : s.errcode = s'.errcode)
    (hH : s.phase = .finalized → s.H = s'.H) : replyTo s i = replyTo s' i := by
  cases i with
  | readStatus => rw [replyTo, replyTo, statusOf_congr hp he]
  | readDigest =>
    by_cases hf : s.phase = .finalized
    · simp [replyTo, ← hp, hf, hH hf]
    · simp [replyTo, ← hp, hf]
  | _ => rfl

/-- Settles O53: the responses grow by `replyTo`, which sees the phase, ERRCODE and, in FINALIZED, `H`. -/
theorem hostObservesOnlyStatusAndDigest : Obligations.HostObservesOnlyStatusAndDigest := by
  intro i s s' u u' h h' hp he hH hr
  rw [exec_responses h, exec_responses h', replyTo_congr hp he hH, hr]

/-! ### The bookkeeping (R30) -/

/-- Putting a fault into the set adds it and keeps the others. -/
theorem mem_insertFault {f g : ModelFault} {fs : List ModelFault} : g ∈ insertFault f fs ↔ g = f ∨ g ∈ fs := by
  induction fs with
  | nil => simp [insertFault]
  | cons x xs ih =>
    unfold insertFault
    split
    · exact List.mem_cons
    · split
      · next heq => simp [heq]
      · simp only [List.mem_cons, ih]
        exact or_left_comm

/-- Every fault and the refusal mark recorded in `s` are recorded in `u`. -/
def KeepsBookkeeping (s u : State) : Prop := (∀ f, f ∈ s.faults → f ∈ u.faults) ∧ (s.refused = true → u.refused = true)

theorem KeepsBookkeeping.refl (s : State) : KeepsBookkeeping s s := ⟨fun _ hf => hf, fun hr => hr⟩

theorem KeepsBookkeeping.trans {v : State} (h : KeepsBookkeeping s u) (h' : KeepsBookkeeping u v) : KeepsBookkeeping s v :=
  ⟨fun f hf => h'.1 f (h.1 f hf), fun hr => h'.2 (h.2 hr)⟩

theorem keepsBookkeeping_record (s : State) (f : ModelFault) : KeepsBookkeeping s (s.record f) :=
  ⟨fun _ hg => mem_insertFault.mpr (.inr hg), fun hr => hr⟩

theorem Effect.keepsBookkeeping (e : Effect s i u) : KeepsBookkeeping s u := by
  cases e with
  | recorded _ f => exact keepsBookkeeping_record s f
  | overCapacity => exact ⟨fun _ hf => hf, fun _ => rfl⟩
  | _ => exact .refl s

theorem step_keepsBookkeeping (h : step s = .next u) : KeepsBookkeeping s u :=
  step_preserves (fun _ _ hv => hv) (fun v f hv => hv.trans (keepsBookkeeping_record v f)) (fun e hv => hv.trans e.keepsBookkeeping) h
    (.refl s)

/-- Settles O30; that no response depends on the bookkeeping is a case of O53. -/
theorem bookkeepingOnlyGrows : Obligations.BookkeepingOnlyGrows :=
  ⟨rfl, rfl, fun _ _ _ => mem_insertFault, fun _ _ => step_keepsBookkeeping,
    fun _ _ _ => ⟨rfl, fun i _ _ h h' => hostObservesOnlyStatusAndDigest i _ _ _ _ h' h rfl rfl (fun _ => rfl) rfl⟩⟩

/-! ### The writers of each register (R32): the named effects write it, every other effect leaves it -/

theorem Effect.phase_writers (e : Effect s i u) :
    u.phase = s.phase ∨
      (i = .reset ∨ (∃ m, i = .start m) ∨ i = .pad ∨ i = .expand ∨ i = .cinit ∨ i = .cadd ∨ i = .finalize) := by
  cases e with
  | reset | tooLarge | accepted | padded | expanded | finalized | loaded | added => exact .inr (by simp)
  | _ => exact .inl rfl

theorem Effect.errcode_writers (e : Effect s i u) : u.errcode = s.errcode ∨ (i = .reset ∨ ∃ m, i = .start m) := by
  cases e with
  | reset | tooLarge | accepted => exact .inr (by simp)
  | _ => exact .inl rfl

theorem Effect.M_writers (e : Effect s i u) :
    u.M = s.M ∨ ((∃ m, i = .start m ∧ (u.M = some m ∨ u.M = none)) ∨ (i = .reset ∨ i = .finalize) ∧ u.M = none) := by
  cases e with
  | reset | tooLarge | accepted | finalized => exact .inr (by simp)
  | _ => exact .inl rfl

theorem Effect.Mp_N_writers (e : Effect s i u) :
    u.Mp = s.Mp ∧ u.N = s.N ∨
      (i = .pad ∧ u.Mp.isSome ∧ u.N.isSome ∨ (i = .reset ∨ (∃ m, i = .start m) ∨ i = .finalize) ∧ u.Mp = none ∧ u.N = none) := by
  cases e with
  | reset | tooLarge | accepted | padded | finalized => exact .inr (by simp)
  | _ => exact .inl ⟨rfl, rfl⟩

theorem Effect.blk_writers (e : Effect s i u) :
    u.blk = s.blk ∨
      ((i = .pad ∨ i = .cadd) ∧ u.blk.isSome ∨ (i = .reset ∨ (∃ m, i = .start m) ∨ i = .finalize) ∧ u.blk = none) := by
  cases e with
  | reset | tooLarge | accepted | padded | finalized | added => exact .inr (by simp)
  | _ => exact .inl rfl

theorem Effect.H_writers (e : Effect s i u) :
    u.H = s.H ∨ (i = .pad ∧ u.H = some ivRom ∨ i = .cadd ∧ u.H.isSome ∨ (i = .reset ∨ ∃ m, i = .start m) ∧ u.H = none) := by
  cases e with
  | reset | tooLarge | accepted | padded | added => exact .inr (by simp)
  | _ => exact .inl rfl

theorem Effect.W_writers (e : Effect s i u) :
    u.W = s.W ∨ (i = .expand ∧ u.W.isSome ∨ (i = .cadd ∨ i = .reset ∨ ∃ m, i = .start m) ∧ u.W = none) := by
  cases e with
  | reset | tooLarge | accepted | expanded | added => exact .inr (by simp)
  | _ => exact .inl rfl

theorem Effect.work_t_writers (e : Effect s i u) :
    u.work = s.work ∧ u.t = s.t ∨
      ((i = .cinit ∨ i = .round) ∧ u.work.isSome ∧ u.t.isSome ∨
        (i = .cadd ∨ i = .reset ∨ ∃ m, i = .start m) ∧ u.work = none ∧ u.t = none) := by
  cases e with
  | reset | tooLarge | accepted | loaded | rounded | added => exact .inr (by simp)
  | _ => exact .inl ⟨rfl, rfl⟩

/-- Settles O50: one lemma for each register, or each two that are written together. -/
theorem writersOfEachRegister : Obligations.WritersOfEachRegister := by
  intro i s u h
  have e := exec_effect h
  exact ⟨e.phase_writers.resolve_left, e.errcode_writers.resolve_left, e.M_writers.resolve_left,
    fun changed => e.Mp_N_writers.resolve_left (not_and_or.mpr changed), e.blk_writers.resolve_left, e.H_writers.resolve_left,
    e.W_writers.resolve_left, fun changed => e.work_t_writers.resolve_left (not_and_or.mpr changed)⟩

/-! ### What a core step answers, and which one the core's turn takes (R65, R75, R85, R99 to R101, R113) -/

theorem exec_pad {msg : Message} (hp : s.phase = .start) (hM : s.M = some msg) (hl : msg.length ≤ lmax) :
    exec .pad s = .next { s with Mp := some (Memory.ofBytes (padMessage msg)), N := some (BitVec.ofNat 56 (blockCount msg)),
                                 blk := some 0, H := some ivRom, phase := .padded } := by
  simp [exec, execPad, hp, hM, hl]

theorem exec_expand {b n : BitVec 56} {mp : Memory} {block : Vector Byte 64} (hp : s.phase = .padded) (hb : s.blk = some b)
    (hn : s.N = some n) (hlt : b < n) (hM : s.Mp = some mp) (hr : mp.readBytes (64 * b.toNat) 64 = some block) :
    exec .expand s = .next { s with W := some (expandBlock block), phase := .expand } := by
  simp [exec, execExpand, hp, hb, hn, hlt, hM, hr]

theorem exec_finalize {n : BitVec 56} (hp : s.phase = .padded) (hb : s.blk = some n) (hn : s.N = some n) :
    exec .finalize s = .next { s with M := none, Mp := none, N := none, blk := none, phase := .finalized } := by
  simp [exec, execFinalize, hp, hb, hn]

theorem exec_cinit {h : Vector Word 8} (hp : s.phase = .expand) (hH : s.H = some h) :
    exec .cinit s = .next { s with work := some (Working.ofState h), t := some 0, phase := .compress } := by
  simp [exec, execCinit, hp, hH]

theorem exec_round {t : BitVec 7} {r : Working} {w : Vector Word 64} (hp : s.phase = .compress) (ht : s.t = some t)
    (hr : s.work = some r) (hW : s.W = some w) (hlt : t.toNat < 64) :
    exec .round s = .next { s with work := some (roundStep kRom[t.toNat] w[t.toNat] r), t := some (t + 1) } := by
  simp [exec, execRound, hp, ht, hr, hW, hlt]

theorem exec_cadd {r : Working} {h : Vector Word 8} {b : BitVec 56} (hp : s.phase = .compress) (ht : s.t = some 64)
    (hr : s.work = some r) (hH : s.H = some h) (hb : s.blk = some b) :
    exec .cadd s = .next { s with H := some (addBack h r), blk := some (b + 1), W := none, work := none, t := none,
                                  phase := .padded } := by
  simp [exec, execCadd, hp, ht, hr, hH, hb]

theorem coreTurn_waits (hp : s.phase = .idle ∨ s.phase = .finalized ∨ s.phase = .error) : coreTurn s = .next s := by
  obtain hp | hp | hp := hp <;> simp [coreTurn, selectStep, hp]

theorem coreTurn_start (hp : s.phase = .start) : coreTurn s = exec .pad s := by
  simp [coreTurn, selectStep, hp]

theorem coreTurn_padded_of_lt {b n : BitVec 56} (hp : s.phase = .padded) (hb : s.blk = some b) (hn : s.N = some n) (hlt : b < n) :
    coreTurn s = exec .expand s := by
  simp [coreTurn, selectStep, hp, hb, hn, hlt]

theorem coreTurn_padded_of_eq {n : BitVec 56} (hp : s.phase = .padded) (hb : s.blk = some n) (hn : s.N = some n) :
    coreTurn s = exec .finalize s := by
  simp [coreTurn, selectStep, hp, hb, hn]

theorem coreTurn_expand (hp : s.phase = .expand) : coreTurn s = exec .cinit s := by
  simp [coreTurn, selectStep, hp]

theorem coreTurn_compress_of_lt {t : BitVec 7} (hp : s.phase = .compress) (ht : s.t = some t) (hlt : t < 64) :
    coreTurn s = exec .round s := by
  simp only [coreTurn, selectStep, hp, ht, if_pos hlt]

theorem coreTurn_compress_of_eq (hp : s.phase = .compress) (ht : s.t = some 64) : coreTurn s = exec .cadd s := by
  simp [coreTurn, selectStep, hp, ht]

/-! ### No step faults under the hash invariant (R15, R136, R139) -/

theorem HashInv.phaseInv (h : HashInv s) : PhaseInv s := h.1

/-- While a computation is under way, the registers are those of some message. -/
theorem HashInv.computing (h : HashInv s) (hb : s.phase.busy = true) : ∃ msg, Computing msg s := by
  obtain ⟨-, hp | hp | hc⟩ := h
  · simp [hp, Phase.busy] at hb
  · simp [hp, Phase.busy] at hb
  · exact hc

theorem Computing.length_le {msg : Message} (h : Computing msg s) : msg.length ≤ lmax :=
  h.1.trans (Nat.le_of_lt_succ s.cfg.msgCap.isLt)

theorem Computing.M_of_start {msg : Message} (h : Computing msg s) (hp : s.phase = .start) : s.M = some msg := by
  obtain ⟨-, h⟩ := h
  simpa only [hp] using h

theorem Computing.atBlock_of_padded {msg : Message} (h : Computing msg s) (hp : s.phase = .padded) :
    ∃ b, AtBlock msg b s ∧ b.toNat ≤ blockCount msg := by
  obtain ⟨-, h⟩ := h
  simpa only [hp] using h

/-- The buffer holds every block before the block count, so a block within it reads (R45). -/
theorem readBytes_block {msg : Message} {k : Nat} (hk : k < blockCount msg) :
    ∃ block, (Memory.ofBytes (padMessage msg)).readBytes (64 * k) 64 = some block := by
  refine Option.isSome_iff_exists.mp (Memory.readBytes_ofBytes_isSome _ _ _ ?_)
  rw [padMessage_length_eq_blocks]
  omega

/-- The core's turn answers a next state in which nothing is recorded. -/
def CoreMoves (s : State) : Prop := ∃ u, coreTurn s = .next u ∧ u.faults = s.faults ∧ u.refused = s.refused

theorem coreMoves_of_waiting (hp : s.phase = .idle ∨ s.phase = .finalized ∨ s.phase = .error) : CoreMoves s :=
  ⟨s, coreTurn_waits hp, rfl, rfl⟩

theorem Computing.coreMoves_of_start {msg : Message} (h : Computing msg s) (hp : s.phase = .start) : CoreMoves s :=
  ⟨_, (coreTurn_start hp).trans (exec_pad hp (h.M_of_start hp) h.length_le), rfl, rfl⟩

/-- PADDED is where the core reads the buffer: EXPAND finds its block there, and FINALIZE follows the last one. -/
theorem Computing.coreMoves_of_padded {msg : Message} (h : Computing msg s) (hp : s.phase = .padded) : CoreMoves s := by
  obtain ⟨b, ⟨-, hMp, hN, hb, -⟩, hle⟩ := h.atBlock_of_padded hp
  have count := ofNat_blockCount_toNat h.length_le
  obtain hlt | heq := Nat.lt_or_eq_of_le hle
  · have selected : b < BitVec.ofNat 56 (blockCount msg) := by rwa [BitVec.lt_def, count]
    obtain ⟨block, hr⟩ := readBytes_block hlt
    exact ⟨_, (coreTurn_padded_of_lt hp hb hN selected).trans (exec_expand hp hb hN selected hMp hr), rfl, rfl⟩
  · obtain rfl : b = BitVec.ofNat 56 (blockCount msg) := BitVec.eq_of_toNat_eq (heq.trans count.symm)
    exact ⟨_, (coreTurn_padded_of_eq hp hb hN).trans (exec_finalize hp hb hN), rfl, rfl⟩

theorem PhaseInv.coreMoves_of_expand (h : PhaseInv s) (hp : s.phase = .expand) : CoreMoves s := by
  obtain ⟨-, -, -, -, hH, -⟩ := h.row_matches (congrArg Phase.row hp)
  obtain ⟨d, hH⟩ := Option.isSome_iff_exists.mp hH
  exact ⟨_, (coreTurn_expand hp).trans (exec_cinit hp hH), rfl, rfl⟩

/-- In COMPRESS a round follows while `t < 64`, and CADD at 64, the bound of `t`. -/
theorem PhaseInv.coreMoves_of_compress (h : PhaseInv s) (hp : s.phase = .compress) : CoreMoves s := by
  obtain ⟨-, -, -, hb, hH, hW, hr, ht, -⟩ := h.row_matches (congrArg Phase.row hp)
  obtain ⟨r, hr⟩ := Option.isSome_iff_exists.mp hr
  obtain ⟨t, ht⟩ := Option.isSome_iff_exists.mp ht
  by_cases hlt : t < 64
  · obtain ⟨w, hW⟩ := Option.isSome_iff_exists.mp hW
    exact ⟨_, (coreTurn_compress_of_lt hp ht hlt).trans (exec_round hp ht hr hW (BitVec.lt_def.mp hlt)), rfl, rfl⟩
  · have hle := h.t_le t ht
    obtain rfl : t = 64 := by bv_omega
    obtain ⟨b, hb⟩ := Option.isSome_iff_exists.mp hb
    obtain ⟨d, hH⟩ := Option.isSome_iff_exists.mp hH
    exact ⟨_, (coreTurn_compress_of_eq hp ht).trans (exec_cadd hp ht hr hH hb), rfl, rfl⟩

theorem PhaseInv.phase_ne_reserved (h : PhaseInv s) : s.phase ≠ .reserved := by
  obtain ⟨⟨r, hr, -⟩, -⟩ := h
  intro hp
  simp [hp, Phase.row] at hr

theorem HashInv.coreMoves (h : HashInv s) : CoreMoves s := by
  cases hp : s.phase with
  | idle | finalized | error => exact coreMoves_of_waiting (by simp [hp])
  | start =>
    obtain ⟨msg, hc⟩ := h.computing (by simp [hp, Phase.busy])
    exact hc.coreMoves_of_start hp
  | padded =>
    obtain ⟨msg, hc⟩ := h.computing (by simp [hp, Phase.busy])
    exact hc.coreMoves_of_padded hp
  | expand => exact h.phaseInv.coreMoves_of_expand hp
  | compress => exact h.phaseInv.coreMoves_of_compress hp
  | reserved => exact absurd hp h.phaseInv.phase_ne_reserved

/-- A host command has no guard and reads no memory, so it answers from every state. -/
theorem exec_host_answers (s : State) (hi : i.isHost = true) : ∃ u, exec i s = .next u := by
  cases i with
  | nop | reset | readStatus | reserved => exact ⟨_, rfl⟩
  | start msg =>
    simp only [exec, execStart]
    split_ifs <;> exact ⟨_, rfl⟩
  | readDigest =>
    simp only [exec, execReadDigest]
    split_ifs
    · cases s.H <;> exact ⟨_, rfl⟩
    · exact ⟨_, rfl⟩
  | pad | expand | finalize | cinit | round | cadd => simp [Instr.isHost] at hi

/-- F_PHASE_RESERVED is the core's turn's alone. -/
theorem Effect.phaseReserved_mem (e : Effect s i u) (hf : .phaseReserved ∈ u.faults) : .phaseReserved ∈ s.faults := by
  cases e with
  | recorded _ f hne => exact (mem_insertFault.mp hf).resolve_left hne.symm
  | _ => exact hf

/-- Of the commands READ_DIGEST alone records F_NO_VALUE, in FINALIZED with no digest state. -/
theorem exec_host_noValue_mem (hi : i.isHost = true) (h : exec i s = .next u) (hf : .noValue ∈ u.faults) :
    .noValue ∈ s.faults ∨ s.phase = .finalized ∧ s.H = none := by
  cases i with
  | nop | reset | readStatus => exact .inl (by rwa [← exec_faults_eq_of_never_records (by simp) h])
  | start msg =>
    obtain ⟨-, rfl⟩ | ⟨-, -, rfl⟩ | ⟨-, -, -, rfl⟩ | ⟨-, -, rfl⟩ := execStart_next h
    · exact .inl ((mem_insertFault.mp hf).resolve_left (by simp))
    all_goals exact .inl hf
  | readDigest =>
    obtain ⟨hp, hH, -⟩ | ⟨_, -, -, rfl⟩ | ⟨-, rfl⟩ := execReadDigest_next h
    · exact .inr ⟨hp, hH⟩
    · exact .inl hf
    · exact .inl ((mem_insertFault.mp hf).resolve_left (by simp))
  | reserved cmd =>
    obtain rfl : s.record (.reservedCmd cmd) = u := by simpa [exec, execReserved] using h
    exact .inl ((mem_insertFault.mp hf).resolve_left (by simp))
  | pad | expand | finalize | cinit | round | cadd => simp [Instr.isHost] at hi

theorem PhaseInv.H_ne_none_of_finalized (h : PhaseInv s) (hp : s.phase = .finalized) : s.H ≠ none := by
  obtain ⟨-, -, -, -, hH, -⟩ := h.row_matches (congrArg Phase.row hp)
  exact Option.isSome_iff_ne_none.mp hH

/-- Settles O44: the core moves by `HashInv.coreMoves`; a command could miss only `H` in FINALIZED, where R34 has it. -/
theorem noStepFaultsUnderTheInvariant : Obligations.NoStepFaultsUnderTheInvariant := by
  refine fun s hs => ⟨hs.coreMoves, fun i hi => ?_⟩
  obtain ⟨u, hu⟩ := exec_host_answers s hi
  refine ⟨u, hu, fun hf => (exec_host_noValue_mem hi hu hf).resolve_right ?_, (exec_effect hu).phaseReserved_mem⟩
  exact fun ⟨hp, hH⟩ => hs.phaseInv.H_ne_none_of_finalized hp hH

/-! ### Independent copies of the block (R37, R132, R149) -/

namespace System

variable {sys sys' : System} {v : State}

/-- A step of the system is a step of one of its states, put back in its place. -/
theorem step_next {k : Fin sys.insts.length} (h : sys.step k = .next sys') :
    ∃ v, Machine.step sys.insts[k] = .next v ∧ sys' = { insts := sys.insts.set k v } := by
  unfold System.step at h
  split at h
  · next v hv => exact ⟨v, hv, by simpa using h.symm⟩
  · simp at h
  · simp at h

theorem step_of_step {k : Fin sys.insts.length} (h : Machine.step sys.insts[k] = .next v) :
    sys.step k = .next { insts := sys.insts.set k v } := by
  simp only [System.step, h]

/-- The state at `k` takes its step just so after the one at `j` has moved. -/
theorem step_set_of_ne {j k : Fin sys.insts.length} (hne : j ≠ k) (w : State) (h : Machine.step sys.insts[k] = .next v) :
    System.step { insts := sys.insts.set j w } ⟨k, by simp⟩ = .next { insts := (sys.insts.set j w).set k v } := by
  refine step_of_step ?_
  have unmoved : (sys.insts.set j w)[k.val]'(by simp) = sys.insts[k] := List.getElem_set_ne (Fin.val_ne_of_ne hne) _
  exact (congrArg Machine.step unmoved).trans h

theorem phase_of_mem_reset {n : Nat} (h : s ∈ (System.reset n).insts) : s.phase = .idle := by
  rw [List.eq_of_mem_replicate h]
  rfl

end System

/-- Settles O54: writes at two different places commute, and neither changes what the other reads. -/
theorem instancesAreIndependent : Obligations.InstancesAreIndependent := by
  refine ⟨fun sys sys' k h => ?_, fun sys j k s s' hne hj hk => ?_, fun _ _ => System.phase_of_mem_reset⟩
  · obtain ⟨v, hv, rfl⟩ := System.step_next h
    exact ⟨List.length_set, fun j hj => List.getElem?_set_ne hj.symm, v, hv, by simp⟩
  · have commute : (sys.insts.set k s').set j s = (sys.insts.set j s).set k s' := List.set_comm _ _ (Fin.val_ne_of_ne hne.symm)
    exact ⟨_, _, _, _, _, System.step_of_step hj, System.step_of_step hk, rfl, rfl, System.step_set_of_ne hne s hk,
      commute ▸ System.step_set_of_ne hne.symm s' hj⟩

end Sys2Proof.Machine
end

section
/-! PROOFS. The memory's statements (20_memory.md): a read changes nothing of the block and reads the same again. -/

namespace Sys2Proof.Machine

variable {s : State} {i : Instr} {r : Response}

/-- Where an operation has a reply, giving it is the operation's whole effect. -/
theorem exec_of_replyTo (h : replyTo s i = some r) : exec i s = .next (s.respond r) := by
  cases i with
  | readStatus =>
    obtain rfl : Response.status (statusOf s) = r := by simpa [replyTo] using h
    exact exec_readStatus s
  | readDigest =>
    obtain ⟨hp, d, hH, rfl⟩ : s.phase = .finalized ∧ ∃ d, s.H = some d ∧ Response.digest (digestBytes d) = r := by
      simpa [replyTo] using h
    simp [exec, execReadDigest, hp, hH]
  | _ => simp [replyTo] at h

/-- READ_STATUS always has a reply, and READ_DIGEST in FINALIZED where `H` holds a value. -/
theorem replyTo_isSome (hi : i = .readStatus ∨ i = .readDigest ∧ s.phase = .finalized ∧ s.H.isSome) : (replyTo s i).isSome := by
  obtain rfl | ⟨rfl, hp, hH⟩ := hi
  · rfl
  · simp [replyTo, hp, hH]

/-- What the host has been given is none of the state that a reply depends on. -/
theorem replyTo_respond (s : State) (r : Response) (i : Instr) : replyTo (s.respond r) i = replyTo s i :=
  replyTo_congr rfl rfl fun _ => rfl

theorem sameHardware_respond (s : State) (r : Response) : SameHardware s (s.respond r) := by
  simp [SameHardware]

/-- Settles O8: a read gives its reply and nothing else, so the second finds the same reply. -/
theorem readsAreRepeatable : Obligations.ReadsAreRepeatable := by
  intro i s u v hi hu hv
  obtain ⟨r, reply⟩ := Option.isSome_iff_exists.mp (replyTo_isSome hi)
  obtain rfl : s.respond r = u := by simpa [exec_of_replyTo reply] using hu
  have again : replyTo (s.respond r) i = some r := (replyTo_respond s r i).trans reply
  obtain rfl : (s.respond r).respond r = v := by simpa [exec_of_replyTo again] using hv
  exact ⟨sameHardware_respond s r, r, rfl, by simp⟩

end Sys2Proof.Machine
end

section
/-! PROOFS. The encoding's statements (30_encoding.md): the commands on the port, the phase codes and STATUS, the micro-operation map,
and the moves of a host in its program. -/

namespace Sys2Proof.Machine

variable {s u : State} {i : Instr}

/-! ### Commands on the port (R54 to R56, R62, R68) -/

theorem decode_singleton (cmd : Byte) : decode [cmd] = .ok (decodeCmd cmd) := rfl

/-- START takes every payload, the empty one too. -/
theorem decode_start (msg : Message) : decode (0x02 :: msg) = .ok (.start msg) := by
  cases msg with
  | nil => rfl
  | cons b rest => simp [decode]

theorem decodeCmd_of_reserved {cmd : Byte} (h : 5 ≤ cmd.toNat) : decodeCmd cmd = .reserved cmd := by
  have differs {legal : Byte} (hl : legal.toNat < 5) : cmd ≠ legal := by
    rintro rfl
    omega
  simp [decodeCmd, differs]

/-- Every command byte is the whole encoding of the command it stands for. -/
theorem encode_decodeCmd (cmd : Byte) :
    (decodeCmd cmd).wf = true ∧ (decodeCmd cmd).isHost = true ∧ encode (decodeCmd cmd) = some [cmd] := by
  by_cases hr : 5 ≤ cmd.toNat
  · simp [decodeCmd_of_reserved hr, Instr.wf, Instr.isHost, encode, hr]
  · have legal : cmd = 0x00 ∨ cmd = 0x01 ∨ cmd = 0x02 ∨ cmd = 0x03 ∨ cmd = 0x04 := by bv_omega
    obtain rfl | rfl | rfl | rfl | rfl := legal <;> decide

/-- What the decoder reads is a well-formed host command, and the bytes are its encoding. -/
theorem encode_of_decode {bytes : List Byte} (h : decode bytes = .ok i) :
    i.wf = true ∧ i.isHost = true ∧ encode i = some bytes := by
  unfold decode at h
  split at h
  · cases h
  · next cmd =>
    obtain rfl := Except.ok.inj h
    exact encode_decodeCmd cmd
  · next cmd b rest =>
    split at h
    · next hcmd =>
      obtain rfl := Except.ok.inj h
      exact ⟨rfl, rfl, congrArg (fun c => some (c :: b :: rest)) hcmd.symm⟩
    · cases h

theorem decode_of_encode {bytes : List Byte} (hwf : i.wf = true) (h : encode i = some bytes) : decode bytes = .ok i := by
  cases i with
  | nop | reset | readStatus | readDigest =>
    obtain rfl := Option.some.inj h
    rfl
  | start msg =>
    obtain rfl := Option.some.inj h
    exact decode_start msg
  | reserved cmd =>
    obtain rfl := Option.some.inj h
    exact congrArg Except.ok (decodeCmd_of_reserved (of_decide_eq_true hwf))
  | pad | expand | finalize | cinit | round | cadd => cases h

/-- Settles O39: `encode_of_decode` one way and `decode_of_encode` the other. -/
theorem decodeAndEncodeAgree : Obligations.DecodeAndEncodeAgree :=
  ⟨fun _ _ => ⟨encode_of_decode, fun ⟨hwf, _, h⟩ => decode_of_encode hwf h⟩, fun cmd => ⟨decodeCmd cmd, decode_singleton cmd⟩⟩

/-- Settles O38: START by `decode_start`, the reserved codes by `decodeCmd_of_reserved`, and the other four evaluate. -/
theorem commandCodesDecode : Obligations.CommandCodesDecode :=
  ⟨rfl, rfl, rfl, rfl, decode_start, fun _ h => congrArg Except.ok (decodeCmd_of_reserved h)⟩

theorem step_of_host_event {bytes : List Byte} {rest : List Event} (he : s.events = .host bytes :: rest) (hd : decode bytes = .ok i) :
    step s = exec i { s with events := rest } := by
  simp only [step, nextEvent, he, hostTurn, hd]

/-- Settles O34: `step_of_host_event` says it. -/
theorem stepRunsTheDecodedCommand : Obligations.StepRunsTheDecodedCommand :=
  fun _ _ _ _ => step_of_host_event

/-! ### The phase codes and STATUS (R57, R58, R61) -/

theorem PhaseInv.errcode_eq {r : PhaseRow} (h : PhaseInv s) (hr : s.phase.row = some r) : s.errcode = r.errcode := by
  obtain ⟨-, -, -, -, -, -, -, -, herr⟩ := h.row_matches hr
  exact herr

/-- The phase fixes STATUS: ERRCODE is that of the phase's row. -/
theorem PhaseInv.statusOf_eq {p : Phase} {r : PhaseRow} (h : PhaseInv s) (hp : s.phase = p) (hr : p.row = some r) :
    statusOf s = statusOf { State.reset with phase := p, errcode := r.errcode } :=
  statusOf_congr hp (h.errcode_eq (hp ▸ hr))

/-- In the table of R34 only ERROR's row has an ERRCODE other than 0. -/
theorem Phase.eq_error_iff_row_errcode {p : Phase} {r : PhaseRow} (hr : p.row = some r) : p = .error ↔ r.errcode ≠ 0 := by
  cases p with
  | reserved => cases hr
  | _ =>
    obtain rfl := Option.some.inj hr
    decide

theorem PhaseInv.error_iff_errcode_ne_zero (h : PhaseInv s) : s.phase = .error ↔ s.errcode ≠ 0 := by
  have ⟨⟨r, hr, _⟩, _⟩ := h
  rw [h.errcode_eq hr]
  exact Phase.eq_error_iff_row_errcode hr

/-- Settles O6: the row of each phase fixes ERRCODE, and the phase and ERRCODE fix STATUS. -/
theorem statusValueInEachPhase : Obligations.StatusValueInEachPhase := by
  intro s h
  obtain ⟨-, -, err⟩ := statusOf_bits s
  exact ⟨fun hp => h.statusOf_eq hp rfl, fun hp => h.statusOf_eq hp rfl, fun hp => h.statusOf_eq hp rfl, fun hp => h.statusOf_eq hp rfl,
    fun hp => h.statusOf_eq hp rfl, fun hp => h.statusOf_eq hp rfl, fun hp => h.statusOf_eq hp rfl,
    (congrArg (· = true) err).to_iff.trans decide_eq_true_iff, h.error_iff_errcode_ne_zero⟩

/-- An effect leaves the phase or enters one that is not the reserved one. -/
theorem Effect.phase_eq_or_ne_reserved (e : Effect s i u) : u.phase = s.phase ∨ u.phase ≠ .reserved := by
  cases e with
  | reset | tooLarge | accepted | padded | expanded | finalized | loaded | added => exact .inr (by simp)
  | _ => exact .inl rfl

theorem coreTurn_reserved (hp : s.phase = .reserved) : coreTurn s = .next (s.record .phaseReserved) := by
  simp [coreTurn, selectStep, hp]

/-- Settles O28: no effect enters the reserved phase, and in it the core's turn has one outcome. -/
theorem reservedPhaseIsNeverWritten : Obligations.ReservedPhaseIsNeverWritten := by
  refine ⟨by decide, fun i s u h hu => ?_, fun _ => coreTurn_reserved⟩
  obtain same | entered := (exec_effect h).phase_eq_or_ne_reserved
  · exact same ▸ hu
  · exact absurd hu entered

/-! ### The micro-operation map (R65) -/

/-- Settles O32: the decoder's side is `encode_of_decode`, the core's one lemma for each row of the map. -/
theorem coreTurnRunsTheSelectedStep : Obligations.CoreTurnRunsTheSelectedStep := by
  refine ⟨fun i bytes h => ?_, fun _ => ⟨coreTurn_start, fun _ _ => coreTurn_padded_of_lt, fun _ => coreTurn_padded_of_eq,
    coreTurn_expand, fun _ => coreTurn_compress_of_lt, coreTurn_compress_of_eq, coreTurn_waits, coreTurn_reserved⟩⟩
  obtain ⟨-, host, -⟩ := encode_of_decode h
  exact host

/-! ### The host's program, command by command (R67, R128) -/

section HostMoves

variable {status : Byte} {rest : List HostAction}

theorem hostNext_repoll_of_busy (h : statusBusy status = true) :
    hostNext status (.repoll :: rest) = .send [0x03] (.repoll :: rest) := by
  simp [hostNext, h]

theorem hostNext_repoll_of_free (h : statusBusy status = false) : hostNext status (.repoll :: rest) = hostNext status rest := by
  simp [hostNext, h]

theorem hostNext_collect_of_done (h : statusDone status = true) : hostNext status (.collect :: rest) = .send [0x04] rest := by
  simp [hostNext, h]

theorem hostNext_collect_of_err (hd : statusDone status = false) (he : statusErr status = true) :
    hostNext status (.collect :: rest) = .report .inputValidationFailure rest := by
  simp [hostNext, hd, he]

theorem hostNext_collect_of_neither (hd : statusDone status = false) (he : statusErr status = false) :
    hostNext status (.collect :: rest) = hostNext status rest := by
  simp [hostNext, hd, he]

end HostMoves

/-- Settles O55: START leaves the polls and the choice still to do, and a poll the loop and the choice. -/
theorem hashTransactionSequence : Obligations.HashTransactionSequence := fun _ =>
  ⟨[.poll, .repoll, .collect], [.repoll, .collect], fun _ => rfl, fun _ => rfl, fun _ =>
    ⟨fun busy => hostNext_repoll_of_busy busy,
      fun free done => (hostNext_repoll_of_free free).trans (hostNext_collect_of_done done),
      fun free undone err => (hostNext_repoll_of_free free).trans (hostNext_collect_of_err undone err),
      fun free undone noErr => (hostNext_repoll_of_free free).trans (hostNext_collect_of_neither undone noErr)⟩⟩

end Sys2Proof.Machine
end

section
/-! PROOFS. The text of a host program (30_encoding.md R67): the display form of a digest, and the lines a host can write. -/

namespace Sys2Proof.Machine

/-! ### Hexadecimal digits -/

/-- The digits 0 to F in order. -/
theorem getElem?_hexDigits {d : Nat} (h : d < 16) : "0123456789ABCDEF".toList[d]? = some (hexChar d) := by
  have all : ∀ d : Fin 16, "0123456789ABCDEF".toList[d.val]? = some (hexChar d.val) := by decide
  exact all ⟨d, h⟩

/-- The two digits of a byte of a word are its two fields of 4 bits. -/
theorem hexByte_extractLsb' (w : Word) (lo : Nat) :
    hexByte (w.extractLsb' lo 8) = [hexChar (w.extractLsb' (lo + 4) 4).toNat, hexChar (w.extractLsb' lo 4).toNat] := by
  have high : (w.extractLsb' lo 8).toNat / 16 = (w.extractLsb' (lo + 4) 4).toNat := by
    simp only [BitVec.extractLsb'_toNat, Nat.shiftRight_add]
    omega
  have low : (w.extractLsb' lo 8).toNat % 16 = (w.extractLsb' lo 4).toNat := by
    simp only [BitVec.extractLsb'_toNat]
    omega
  rw [hexByte, high, low]

/-! ### The display form of a digest (R67, R116) -/

/-- The 8 uppercase hexadecimal digits of a word, the most significant first. -/
def wordDigits (w : Word) : List Char := (List.range 8).map fun k => hexChar (w.extractLsb' (28 - 4 * k) 4).toNat

theorem wordDigits_length (w : Word) : (wordDigits w).length = 8 := by simp [wordDigits]

theorem flatMap_hexByte_bytes32 (w : Word) : (bytes32 w).toList.flatMap hexByte = wordDigits w := by
  simp [bytes32, hexByte_extractLsb', wordDigits, List.range_succ]

/-- The bytes of word `i` in the digest (R42). -/
theorem digestBytes_word (h : Vector Word 8) {i : Nat} (hi : i < 8) :
    ((digestBytes h).toList.drop (4 * i)).take 4 = (bytes32 h[i]).toList := by
  have within : 4 ≤ 32 - 4 * i := by omega
  refine List.ext_getElem (by simpa using within) fun k hk _ => ?_
  have hk : k < 4 := by
    simp only [List.length_take] at hk
    omega
  simp [digestBytes, show (4 * i + k) / 4 = i by omega, show (4 * i + k) % 4 = k by omega]

theorem displayDigest_digestBytes (h : Vector Word 8) :
    displayDigest (digestBytes h) = [' '].intercalate (h.toList.map wordDigits) := by
  refine congrArg _ (List.ext_getElem (by simp) fun i hi _ => ?_)
  have hi : i < 8 := by simpa using hi
  simp [digestBytes_word h hi, flatMap_hexByte_bytes32]

section Groups

variable {α : Type} {n : Nat} {sep : α}

/-- Past its first `i` groups of `n` and the separators after them, what is left are the other groups. -/
theorem drop_intercalate {groups : List (List α)} (size : ∀ g ∈ groups, g.length = n) (i : Nat) :
    ([sep].intercalate groups).drop ((n + 1) * i) = [sep].intercalate (groups.drop i) := by
  induction groups generalizing i with
  | nil => simp
  | cons g rest ih =>
    cases i with
    | zero => simp
    | succ i =>
      have hg : g.length = n := size g (by simp)
      have past : (n + 1) * (i + 1) = (g ++ [sep]).length + (n + 1) * i := by
        rw [List.length_append, hg, List.length_singleton, Nat.mul_succ, Nat.add_comm]
      cases rest with
      | nil =>
        have beyond : g.length ≤ (n + 1) * (i + 1) := by rw [past, List.length_append]; omega
        simpa using beyond
      | cons g' rest =>
        rw [List.intercalate_cons_cons, past, List.drop_length_add_append]
        exact ih (fun x hx => size x (List.mem_cons_of_mem _ hx)) i

/-- Character `k` of the text from a group on. -/
theorem getElem?_intercalate {groups : List (List α)} (size : ∀ g ∈ groups, g.length = n) {i k : Nat} (hi : i < groups.length)
    (hk : k < n) : ([sep].intercalate groups)[(n + 1) * i + k]? = groups[i][k]? := by
  have hg : groups[i].length = n := size _ (List.getElem_mem hi)
  rw [← List.getElem?_drop, drop_intercalate size, List.drop_eq_getElem_cons hi]
  cases groups.drop (i + 1) with
  | nil => simp
  | cons g rest => simp [List.intercalate_cons_cons, List.getElem?_append_left, hg, hk]

theorem getElem?_intercalate_sep {groups : List (List α)} (size : ∀ g ∈ groups, g.length = n) {i : Nat} (hi : i + 1 < groups.length) :
    ([sep].intercalate groups)[(n + 1) * i + n]? = some sep := by
  have hg : groups[i].length = n := size _ (List.getElem_mem _)
  rw [← List.getElem?_drop, drop_intercalate size, List.drop_eq_getElem_cons (by omega), List.drop_eq_getElem_cons hi,
    List.intercalate_cons_cons]
  simp [← hg]

end Groups

/-- Settles O58: the display form is the eight words' digits with spaces between. -/
theorem digestDisplayForm : Obligations.DigestDisplayForm := by
  intro h
  have size : ∀ g ∈ h.toList.map wordDigits, g.length = 8 := by simp [wordDigits_length]
  rw [displayDigest_digestBytes]
  refine ⟨?_, fun i k hi hk => ?_, fun i hi => getElem?_intercalate_sep size ?_⟩
  · have last : ([' '].intercalate (h.toList.map wordDigits)).drop 63 = wordDigits h[7] := by
      rw [drop_intercalate size 7, List.drop_eq_getElem_cons (by simp), List.drop_eq_nil_of_le (by simp)]
      simp
    have length := congrArg List.length last
    rw [List.length_drop, wordDigits_length] at length
    omega
  · rw [getElem?_intercalate size (by simpa using hi) hk, getElem?_hexDigits (BitVec.isLt _)]
    simp [wordDigits, hk]
  · rw [List.length_map, Vector.length_toList]
    omega

/-! ### The characters of a line (R67) -/

/-- Only characters of a name. -/
def NameChars (cs : List Char) : Prop := ∀ c ∈ cs, isNameChar c = true

theorem NameChars.of_all {cs : List Char} (h : cs.all isNameChar = true) : NameChars cs := List.all_eq_true.mp h

theorem NameChars.append {xs ys : List Char} (hx : NameChars xs) (hy : NameChars ys) : NameChars (xs ++ ys) :=
  List.forall_mem_append.mpr ⟨hx, hy⟩

theorem NameChars.not_mem {cs : List Char} (h : NameChars cs) {c : Char} (hc : isNameChar c = false) : c ∉ cs :=
  fun hmem => by simp [h c hmem] at hc

/-- Only blanks. -/
def Blanks (cs : List Char) : Prop := ∀ c ∈ cs, isBlank c = true

theorem blanks_nil : Blanks [] := List.forall_mem_nil _

theorem blanks_space : Blanks [' '] := List.all_eq_true.mp rfl

theorem isBlank_cases {c : Char} (h : isBlank c = true) : c = ' ' ∨ c = '\t' ∨ c = '\r' := by
  simpa [isBlank, or_assoc] using h

theorem isNameChar_of_isBlank {c : Char} (h : isBlank c = true) : isNameChar c = false := by
  obtain rfl | rfl | rfl := isBlank_cases h <;> decide

/-- No character with which a comment or a quoted text begins. -/
def isPlain (c : Char) : Bool := c ≠ ';' && c ≠ quoteChar

/-- Only such characters. -/
def Plain (cs : List Char) : Prop := ∀ c ∈ cs, isPlain c = true

theorem Plain.of_all {cs : List Char} (h : cs.all isPlain = true) : Plain cs := List.all_eq_true.mp h

theorem Plain.append {xs ys : List Char} (hx : Plain xs) (hy : Plain ys) : Plain (xs ++ ys) :=
  List.forall_mem_append.mpr ⟨hx, hy⟩

theorem isPlain_of_isNameChar {c : Char} (h : isNameChar c = true) : isPlain c = true := by
  have semicolon : c ≠ ';' := by
    rintro rfl
    exact absurd h (by decide)
  have quote : c ≠ quoteChar := by
    rintro rfl
    exact absurd h (by decide)
  simp [isPlain, semicolon, quote]

theorem NameChars.plain {cs : List Char} (h : NameChars cs) : Plain cs := fun c hc => isPlain_of_isNameChar (h c hc)

theorem isPlain_of_isBlank {c : Char} (h : isBlank c = true) : isPlain c = true := by
  obtain rfl | rfl | rfl := isBlank_cases h <;> decide

theorem Blanks.plain {cs : List Char} (h : Blanks cs) : Plain cs := fun c hc => isPlain_of_isBlank (h c hc)

/-! ### Trimming -/

/-- No blank at either end. -/
def Trimmed (cs : List Char) : Prop := (∀ c ∈ cs.head?, isBlank c = false) ∧ ∀ c ∈ cs.getLast?, isBlank c = false

theorem NameChars.isBlank_eq_false {cs : List Char} (h : NameChars cs) : ∀ c ∈ cs, isBlank c = false := by
  intro c hc
  by_contra blank
  exact h.not_mem (isNameChar_of_isBlank (by simpa using blank)) hc

theorem trimmed_of_noBlank {cs : List Char} (h : ∀ c ∈ cs, isBlank c = false) : Trimmed cs :=
  ⟨fun c hc => h c (List.mem_of_head? hc), fun c hc => h c (List.mem_of_getLast? hc)⟩

theorem NameChars.trimmed {cs : List Char} (h : NameChars cs) : Trimmed cs := trimmed_of_noBlank h.isBlank_eq_false

theorem NameChars.trimmed_append {name rest : List Char} (hne : name ≠ []) (h : NameChars name)
    (last : ∀ c ∈ rest.getLast?, isBlank c = false) : Trimmed (name ++ rest) := by
  refine ⟨fun c hc => ?_, fun c hc => ?_⟩
  · rw [List.head?_append_of_ne_nil _ hne] at hc
    exact h.isBlank_eq_false c (List.mem_of_head? hc)
  · rw [List.getLast?_append] at hc
    obtain hc | ⟨-, hc⟩ := Option.or_eq_some_iff.mp hc
    · exact last c hc
    · exact h.isBlank_eq_false c (List.mem_of_getLast? hc)

theorem dropWhile_isBlank_eq_self {cs : List Char} (h : ∀ c ∈ cs.head?, isBlank c = false) : cs.dropWhile isBlank = cs := by
  cases cs with
  | nil => rfl
  | cons c cs => exact List.dropWhile_cons_of_neg (by simp [h c rfl])

theorem trimBlanks_between {before body after : List Char} (hb : Blanks before) (ha : Blanks after) (h : Trimmed body) :
    trimBlanks (before ++ body ++ after) = body := by
  obtain ⟨first, last⟩ := h
  rw [trimBlanks, List.append_assoc, List.dropWhile_append_of_pos hb]
  cases body with
  | nil => simp [List.dropWhile_eq_nil_iff.mpr ha]
  | cons c cs =>
    have hafter : ∀ c ∈ after.reverse, isBlank c = true := fun c hc => ha c (List.mem_reverse.mp hc)
    rw [dropWhile_isBlank_eq_self (cs := c :: cs ++ after) first, List.reverse_append, List.dropWhile_append_of_pos hafter,
      dropWhile_isBlank_eq_self (by rwa [List.head?_reverse]), List.reverse_reverse]

theorem Blanks.trimBlanks_append {before body : List Char} (hb : Blanks before) (h : Trimmed body) :
    trimBlanks (before ++ body) = body := by
  simpa using trimBlanks_between hb blanks_nil h

/-! ### Numbers -/

theorem afterPrefix_append (p cs : List Char) : afterPrefix p (p ++ cs) = some cs := by
  induction p with
  | nil => rfl
  | cons c p ih => simpa [afterPrefix] using ih

theorem eq_append_of_afterPrefix {p cs rest : List Char} (h : afterPrefix p cs = some rest) : cs = p ++ rest := by
  induction p generalizing cs with
  | nil => exact Option.some.inj h
  | cons a p ih =>
    cases cs with
    | nil => cases h
    | cons c cs =>
      unfold afterPrefix at h
      split at h
      · next heq => rw [heq, ih h]; rfl
      · cases h

/-- Digits as characters. -/
def digits {base : Nat} (ds : List (Fin base)) : List Char := ds.map fun d => hexChar d.val

/-- The number that digits denote, the first one the most significant. -/
def valueOf {base : Nat} (ds : List (Fin base)) : Nat := ds.foldl (fun acc d => base * acc + d.val) 0

section Digits

variable {base : Nat} (hbase : base ≤ 16)
include hbase

theorem digits_isNameChar (ds : List (Fin base)) : NameChars (digits ds) := by
  have all : ∀ d : Fin 16, isNameChar (hexChar d.val) = true := by decide
  intro c hc
  obtain ⟨d, -, rfl⟩ := List.mem_map.mp hc
  exact all (d.castLE hbase)

theorem not_mem_digits_x (ds : List (Fin base)) : 'x' ∉ digits ds := by
  have all : ∀ d : Fin 16, hexChar d.val ≠ 'x' := by decide
  intro hc
  obtain ⟨d, -, heq⟩ := List.mem_map.mp hc
  exact all (d.castLE hbase) heq

theorem hexDigit_hexChar (d : Fin base) : hexDigit (hexChar d.val) = some (d.castLE hbase) := by
  have all : ∀ d : Fin 16, hexDigit (hexChar d.val) = some d := by decide
  exact all (d.castLE hbase)

theorem digitsFrom_digits (ds : List (Fin base)) (acc : Nat) :
    digitsFrom base acc (digits ds) = some (ds.foldl (fun acc d => base * acc + d.val) acc) := by
  induction ds generalizing acc with
  | nil => rfl
  | cons d ds ih =>
    simpa [digits, digitsFrom, hexDigit_hexChar hbase] using ih (base * acc + d.val)

end Digits

theorem numeral_decimal {ds : List (Fin 10)} (h : ds ≠ []) : numeral (digits ds) = some (valueOf ds) := by
  have noPrefix : afterPrefix "0x".toList (digits ds) = none := by
    rw [Option.eq_none_iff_forall_ne_some]
    intro rest hrest
    refine not_mem_digits_x (by decide) ds ?_
    rw [eq_append_of_afterPrefix hrest]
    simp
  have nonempty : digits ds ≠ [] := by simpa [digits] using h
  simp only [numeral, noPrefix, if_neg nonempty]
  exact digitsFrom_digits (by decide) ds 0

theorem numeral_hex {ds : List (Fin 16)} (h : ds ≠ []) : numeral ("0x".toList ++ digits ds) = some (valueOf ds) := by
  cases ds with
  | nil => exact absurd rfl h
  | cons d ds =>
    rw [numeral, afterPrefix_append]
    exact digitsFrom_digits (Nat.le_refl 16) (d :: ds) 0

theorem nameChars_hex (ds : List (Fin 16)) : NameChars ("0x".toList ++ digits ds) :=
  .append (.of_all rfl) (digits_isNameChar (Nat.le_refl 16) ds)

theorem takeWhile_ne_append {x : Char} {xs : List Char} (h : x ∉ xs) (ys : List Char) :
    (xs ++ x :: ys).takeWhile (· ≠ x) = xs := by
  rw [List.takeWhile_append_of_pos (fun c hc => by simpa using ne_of_mem_of_not_mem hc h)]
  simp

theorem dropWhile_ne_append {x : Char} {xs : List Char} (h : x ∉ xs) (ys : List Char) :
    (xs ++ x :: ys).dropWhile (· ≠ x) = x :: ys := by
  rw [List.dropWhile_append_of_pos (fun c hc => by simpa using ne_of_mem_of_not_mem hc h)]
  simp

theorem caret_not_mem {before cs : List Char} (hb : Blanks before) (h : NameChars cs) : '^' ∉ before ++ cs := by
  intro hc
  obtain hc | hc := List.mem_append.mp hc
  · exact absurd (hb _ hc) (by decide)
  · exact absurd (h _ hc) (by decide)

theorem number_numeral {before cs : List Char} (hb : Blanks before) (h : NameChars cs) : number (before ++ cs) = numeral cs := by
  have noPower : (before ++ cs).dropWhile (· ≠ '^') = [] := by
    rw [List.dropWhile_eq_nil_iff]
    exact fun c hc => decide_eq_true (ne_of_mem_of_not_mem hc (caret_not_mem hb h))
  simp only [number, noPower, hb.trimBlanks_append h.trimmed]

theorem number_power {before xs ys : List Char} (hb : Blanks before) (hx : NameChars xs) (hy : NameChars ys) {b e : Nat}
    (hxv : numeral xs = some b) (hyv : numeral ys = some e) : number (before ++ (xs ++ '^' :: ys)) = some (b ^ e) := by
  have noPower := caret_not_mem hb hx
  have trimmed : trimBlanks ys = ys := blanks_nil.trimBlanks_append hy.trimmed
  rw [← List.append_assoc]
  simp only [number, takeWhile_ne_append noPower, dropWhile_ne_append noPower, hb.trimBlanks_append hx.trimmed, trimmed, hxv, hyv]

/-- The ways a count may be written in `rep`: in decimal, in hexadecimal, or as a power. -/
inductive SpellsCount : List Char → Nat → Prop where
  | decimal (ds : List (Fin 10)) (h : ds ≠ []) : SpellsCount (digits ds) (valueOf ds)
  | hex (ds : List (Fin 16)) (h : ds ≠ []) : SpellsCount ("0x".toList ++ digits ds) (valueOf ds)
  | power (xs ys : List (Fin 10)) (hx : xs ≠ []) (hy : ys ≠ []) :
      SpellsCount (digits xs ++ '^' :: digits ys) (valueOf xs ^ valueOf ys)

theorem SpellsCount.plain {count : List Char} {n : Nat} (h : SpellsCount count n) : Plain count := by
  have decimal (ds : List (Fin 10)) : Plain (digits ds) := (digits_isNameChar (by decide) ds).plain
  cases h with
  | decimal ds => exact decimal ds
  | hex ds => exact (nameChars_hex ds).plain
  | power xs ys => exact (decimal xs).append (List.forall_mem_cons.mpr ⟨by decide, decimal ys⟩)

theorem SpellsCount.number_eq {before count : List Char} {n : Nat} (hb : Blanks before) (h : SpellsCount count n) :
    number (before ++ count) = some n := by
  have decimal (ds : List (Fin 10)) : NameChars (digits ds) := digits_isNameChar (by decide) ds
  cases h with
  | decimal ds h => rw [number_numeral hb (decimal ds), numeral_decimal h]
  | hex ds h => rw [number_numeral hb (nameChars_hex ds), numeral_hex h]
  | power xs ys hx hy => exact number_power hb (decimal xs) (decimal ys) (numeral_decimal hx) (numeral_decimal hy)

/-! ### Comments and labels -/

/-- A text in which no comment begins and no quoted text is left open. -/
def KeptByDropComment (cs : List Char) : Prop := ∀ rest, dropComment false (cs ++ rest) = cs ++ dropComment false rest

theorem Plain.kept {cs : List Char} (h : Plain cs) : KeptByDropComment cs := by
  intro rest
  induction cs with
  | nil => rfl
  | cons c cs ih =>
    obtain ⟨hc, hcs⟩ := List.forall_mem_cons.mp h
    obtain ⟨semicolon, quote⟩ : c ≠ ';' ∧ c ≠ quoteChar := by simpa [isPlain] using hc
    simp [dropComment, semicolon, quote, ih hcs]

theorem KeptByDropComment.append {xs ys : List Char} (hx : KeptByDropComment xs) (hy : KeptByDropComment ys) :
    KeptByDropComment (xs ++ ys) := by
  intro rest
  rw [List.append_assoc, hx, hy, List.append_assoc]

/-- Within quotes a `;` is a character like others. -/
theorem dropComment_quoted {text : List Char} (h : ∀ c ∈ text, c ≠ quoteChar) (rest : List Char) :
    dropComment true (text ++ rest) = text ++ dropComment true rest := by
  induction text with
  | nil => rfl
  | cons c cs ih =>
    obtain ⟨quote, hcs⟩ := List.forall_mem_cons.mp h
    simp [dropComment, quote, ih hcs]

/-- What may stand before a command: nothing, or a label. -/
def IsLabel (label : List Char) : Prop :=
  label = [] ∨ ∃ name : List Char, name ≠ [] ∧ (∀ c ∈ name, isNameChar c = true) ∧ label = name ++ ": ".toList

/-- What may stand after a command: nothing, or a comment. -/
def IsTail (tail : List Char) : Prop := tail = [] ∨ ∃ comment : List Char, tail = " ;".toList ++ comment

theorem IsLabel.plain {label : List Char} (h : IsLabel label) : Plain label := by
  obtain rfl | ⟨name, -, hname, rfl⟩ := h
  · exact List.forall_mem_nil _
  · exact Plain.append (NameChars.plain hname) (.of_all rfl)

/-- Of a comment only the blank before it is left. -/
theorem IsTail.blanks_dropComment {tail : List Char} (h : IsTail tail) : Blanks (dropComment false tail) := by
  obtain rfl | ⟨comment, rfl⟩ := h
  · exact blanks_nil
  · exact blanks_space

/-- A name reaches as far as its characters. -/
theorem split_name {name rest : List Char} (h : NameChars name) (hr : ∀ c ∈ rest.head?, isNameChar c = false) :
    (name ++ rest).takeWhile isNameChar = name ∧ (name ++ rest).dropWhile isNameChar = rest := by
  rw [List.takeWhile_append_of_pos h, List.dropWhile_append_of_pos h]
  cases rest with
  | nil => simp
  | cons c rest => simp [hr c rfl]

theorem dropLabel_label {name : List Char} (hne : name ≠ []) (h : NameChars name) (rest : List Char) :
    dropLabel (name ++ ':' :: rest) = trimBlanks rest := by
  obtain ⟨taken, dropped⟩ := split_name (rest := ':' :: rest) h (by rintro c ⟨⟩; decide)
  cases name with
  | nil => exact absurd rfl hne
  | cons c cs => simp only [dropLabel, taken, dropped]

theorem dropLabel_trimBlanks_label {name inner after : List Char} (hne : name ≠ []) (h : NameChars name)
    (last : ∀ c ∈ inner.getLast?, isBlank c = false) (ha : Blanks after) :
    dropLabel (trimBlanks (name ++ ':' :: inner ++ after)) = trimBlanks inner := by
  have trimmed : Trimmed (name ++ ':' :: inner) := h.trimmed_append hne fun c hc => by
    cases inner with
    | nil =>
      obtain rfl : ':' = c := by simpa using hc
      decide
    | cons d ds => exact last c (by simpa using hc)
  rw [← List.nil_append (name ++ ':' :: inner), trimBlanks_between blanks_nil ha trimmed, dropLabel_label hne h]

/-- A label is dropped, with the blanks around what it stands before. -/
theorem dropLabel_trimBlanks {label body after : List Char} (hl : IsLabel label) (hbody : Trimmed body) (ha : Blanks after)
    (noLabel : dropLabel body = body) : dropLabel (trimBlanks (label ++ body ++ after)) = body := by
  obtain rfl | ⟨name, hne, hname, rfl⟩ := hl
  · rw [trimBlanks_between blanks_nil ha hbody, noLabel]
  · by_cases hnil : body = []
    · subst hnil
      have after_space : Blanks (' ' :: after) := List.forall_mem_cons.mpr ⟨rfl, ha⟩
      simpa [trimBlanks] using dropLabel_trimBlanks_label (inner := []) hne hname (by simp) after_space
    · have last : ∀ c ∈ (' ' :: body).getLast?, isBlank c = false := by
        rw [List.getLast?_cons_of_ne_nil hnil]
        exact hbody.2
      have inner : trimBlanks (' ' :: body) = body := blanks_space.trimBlanks_append hbody
      simpa [inner] using dropLabel_trimBlanks_label hne hname last ha

/-! ### Lines -/

/-- What can follow a mnemonic: nothing, or a blank and an operand. -/
structure IsArgs (args : List Char) : Prop where
  first : ∀ c ∈ args.head?, c = ' '
  last : ∀ c ∈ args.getLast?, isBlank c = false
  kept : KeptByDropComment args

theorem isArgs_nil : IsArgs [] := ⟨by simp, by simp, fun _ => rfl⟩

theorem IsArgs.split {mnemonic args : List Char} (hm : NameChars mnemonic) (ha : IsArgs args) :
    (mnemonic ++ args).takeWhile isNameChar = mnemonic ∧ (mnemonic ++ args).dropWhile isNameChar = args :=
  split_name hm fun c hc => by rw [ha.first c hc]; decide

/-- A mnemonic with what follows it is no label. -/
theorem IsArgs.dropLabel_eq {mnemonic args : List Char} (hm : NameChars mnemonic) (ha : IsArgs args) :
    dropLabel (mnemonic ++ args) = mnemonic ++ args := by
  obtain ⟨-, dropped⟩ := ha.split hm
  unfold dropLabel
  split
  · next hcolon =>
    rw [dropped] at hcolon
    exact absurd (ha.first ':' (by simp [hcolon])) (by decide)
  · rfl

section Lines

variable {label tail : List Char} (hl : IsLabel label) (ht : IsTail tail)
include hl ht

theorem readLine_command {mnemonic args : List Char} {l : HostLine} (hne : mnemonic ≠ []) (hm : NameChars mnemonic) (ha : IsArgs args)
    (hcmd : hostCommand mnemonic (trimBlanks args) = some l) : readLine (label ++ (mnemonic ++ args) ++ tail) = .line l := by
  have kept : KeptByDropComment (label ++ (mnemonic ++ args)) := hl.plain.kept.append (hm.plain.kept.append ha.kept)
  have body := dropLabel_trimBlanks hl (hm.trimmed_append hne ha.last) ht.blanks_dropComment (ha.dropLabel_eq hm)
  obtain ⟨taken, dropped⟩ := ha.split hm
  have nonempty : mnemonic ++ args ≠ [] := by simp [hne]
  simp only [readLine, kept tail, body, taken, dropped, hcmd, if_neg nonempty]

theorem readLine_mnemonic {mnemonic : List Char} {l : HostLine} (hne : mnemonic ≠ []) (hm : mnemonic.all isNameChar = true)
    (hcmd : hostCommand mnemonic [] = some l) : readLine (label ++ mnemonic ++ tail) = .line l := by
  simpa using readLine_command hl ht hne (.of_all hm) isArgs_nil hcmd

theorem readLine_blanks {blanks : List Char} (hb : Blanks blanks) : readLine (label ++ blanks ++ tail) = .empty := by
  have kept : KeptByDropComment (label ++ blanks) := hl.plain.kept.append hb.plain.kept
  have after : Blanks (blanks ++ dropComment false tail) := List.forall_mem_append.mpr ⟨hb, ht.blanks_dropComment⟩
  have body := dropLabel_trimBlanks hl (trimmed_of_noBlank (List.forall_mem_nil _)) after rfl
  simp only [List.append_nil, ← List.append_assoc] at body
  simp only [readLine, kept tail, body, if_pos]

end Lines

/-! ### The operands of START and HASH -/

theorem hostCommand_start (operand : List Char) : hostCommand "START".toList operand = (startOperand operand).map .start := rfl

theorem hostCommand_hash (operand : List Char) : hostCommand "HASH".toList operand = (startOperand operand).map .hash := rfl

theorem startOperand_text (cs : List Char) : startOperand (quoteChar :: cs) = textOperand cs := rfl

theorem startOperand_hex (cs : List Char) : startOperand ("hex:".toList ++ cs) = (hexPairs cs).map .hex := rfl

theorem startOperand_rep (cs : List Char) : startOperand ("rep(".toList ++ cs) = repOperand cs := rfl

/-- A text that is read as an operand, wherever it stands. -/
structure OperandText (operand : List Char) (op : StartOperand) : Prop where
  reads : startOperand operand = some op
  trimmed : Trimmed operand
  kept : KeptByDropComment operand

theorem OperandText.isArgs {operand : List Char} {op : StartOperand} (h : OperandText operand op) : IsArgs (' ' :: operand) where
  first := by simp
  last := by
    have hne : operand ≠ [] := by
      rintro rfl
      cases h.reads
    rw [List.getLast?_cons_of_ne_nil hne]
    exact h.trimmed.2
  kept := blanks_space.plain.kept.append h.kept

theorem OperandText.readLine_eq {operand label tail : List Char} {op : StartOperand} (h : OperandText operand op) (hl : IsLabel label)
    (ht : IsTail tail) :
    readLine (label ++ ("START".toList ++ ' ' :: operand) ++ tail) = .line (.start op) ∧
      readLine (label ++ ("HASH".toList ++ ' ' :: operand) ++ tail) = .line (.hash op) := by
  have trimmed : trimBlanks (' ' :: operand) = operand := blanks_space.trimBlanks_append h.trimmed
  refine ⟨readLine_command hl ht (by simp) (.of_all rfl) h.isArgs ?_,
    readLine_command hl ht (by simp) (.of_all rfl) h.isArgs ?_⟩
  · rw [trimmed, hostCommand_start, h.reads, Option.map_some]
  · rw [trimmed, hostCommand_hash, h.reads, Option.map_some]

theorem trimmed_of_ends {a b : Char} (cs : List Char) (ha : isBlank a = false) (hb : isBlank b = false) : Trimmed (a :: cs ++ [b]) := by
  simp [Trimmed, List.getLast?_cons, ha, hb]

theorem operandText_text {text : List Char} (h : ∀ c ∈ text, c ≠ quoteChar ∧ c.toNat < 128) :
    OperandText (quoteChar :: text ++ [quoteChar]) (.text text) where
  reads := by
    rw [List.cons_append, startOperand_text]
    simpa [textOperand] using h
  trimmed := trimmed_of_ends text (by decide) (by decide)
  kept := by
    intro rest
    have quoted := dropComment_quoted (fun c hc => (h c hc).1) ([quoteChar] ++ rest)
    have opens (q : Bool) (cs : List Char) : dropComment q (quoteChar :: cs) = quoteChar :: dropComment (!q) cs := by
      simp [dropComment, show quoteChar ≠ ';' by decide]
    simpa [opens] using quoted

/-- The two hexadecimal digits of a byte. -/
def nibbles (b : Byte) : Fin 16 × Fin 16 := (⟨b.toNat / 16, by omega⟩, ⟨b.toNat % 16, by omega⟩)

theorem hexByte_eq_digits (b : Byte) : hexByte b = digits [(nibbles b).1, (nibbles b).2] := rfl

theorem valueOf_nibbles (b : Byte) : valueOf [(nibbles b).1, (nibbles b).2] = b.toNat := by
  simp only [valueOf, nibbles, List.foldl_cons, List.foldl_nil]
  omega

theorem hexByte_isNameChar (b : Byte) : NameChars (hexByte b) :=
  digits_isNameChar (Nat.le_refl 16) [(nibbles b).1, (nibbles b).2]

theorem hexPairs_flatMap_hexByte (msg : Message) : hexPairs (msg.flatMap hexByte) = some (msg.map nibbles) := by
  induction msg with
  | nil => rfl
  | cons b msg ih =>
    have high := hexDigit_hexChar (Nat.le_refl 16) (nibbles b).1
    have low := hexDigit_hexChar (Nat.le_refl 16) (nibbles b).2
    simp only [List.flatMap_cons, hexByte_eq_digits, digits, List.map_cons, List.map_nil, List.cons_append, List.nil_append, hexPairs,
      high, low, ih]
    rfl

theorem message_hex_nibbles (msg : Message) : (StartOperand.hex (msg.map nibbles)).message = msg := by
  have byte (b : Byte) : BitVec.ofNat 8 (16 * (nibbles b).1.val + (nibbles b).2.val) = b := by
    apply BitVec.eq_of_toNat_eq
    simp only [nibbles, BitVec.toNat_ofNat]
    omega
  simp [StartOperand.message, Function.comp_def, byte]

theorem operandText_hex (msg : Message) : OperandText ("hex:".toList ++ msg.flatMap hexByte) (.hex (msg.map nibbles)) := by
  have pairs : NameChars (msg.flatMap hexByte) := fun c hc => by
    obtain ⟨b, -, hc⟩ := List.mem_flatMap.mp hc
    exact hexByte_isNameChar b c hc
  refine ⟨?_, trimmed_of_noBlank (List.forall_mem_append.mpr ⟨?_, pairs.isBlank_eq_false⟩),
    Plain.kept (.append (.of_all rfl) pairs.plain)⟩
  · rw [startOperand_hex, hexPairs_flatMap_hexByte, Option.map_some]
  · simp [isBlank]

theorem repOperand_eq {byte count : List Char} {b : Byte} {n : Nat} (hcomma : ',' ∉ byte) (hb : number byte = some b.toNat)
    (hn : number (' ' :: count) = some n) : repOperand (byte ++ ',' :: (' ' :: count ++ [')'])) = some (.rep b n) := by
  rw [repOperand, takeWhile_ne_append hcomma, dropWhile_ne_append hcomma]
  simp [hb, hn, b.isLt]

theorem operandText_rep (b : Byte) {count : List Char} {n : Nat} (h : SpellsCount count n) :
    OperandText ("rep(0x".toList ++ hexByte b ++ ", ".toList ++ count ++ [')']) (.rep b n) := by
  have chars : NameChars ("0x".toList ++ hexByte b) := nameChars_hex [(nibbles b).1, (nibbles b).2]
  have value : number ("0x".toList ++ hexByte b) = some b.toNat := by
    rw [← valueOf_nibbles b]
    exact SpellsCount.number_eq (before := []) blanks_nil (.hex [(nibbles b).1, (nibbles b).2] (by simp))
  have countValue : number (' ' :: count) = some n := h.number_eq (before := [' ']) blanks_space
  have plain : Plain ("rep(0x".toList ++ hexByte b ++ ", ".toList ++ count ++ [')']) :=
    (((Plain.of_all rfl).append (hexByte_isNameChar b).plain).append (.of_all rfl) |>.append h.plain).append (.of_all rfl)
  exact ⟨(startOperand_rep _).trans (repOperand_eq (chars.not_mem (by decide)) value countValue),
    trimmed_of_ends ("ep(0x".toList ++ hexByte b ++ ", ".toList ++ count) (by decide) (by decide), plain.kept⟩

/-- Settles O57: an operand's three forms are the three `OperandText` lemmas; the reader drops what stands before and after a line. -/
theorem hostProgramLinesRead : Obligations.HostProgramLinesRead := by
  intro label tail hl ht
  refine ⟨fun text htext => ?_, fun msg => ?_, fun b count n hcount => ?_,
    readLine_mnemonic hl ht (by simp) rfl rfl, readLine_mnemonic hl ht (by simp) rfl rfl, readLine_mnemonic hl ht (by simp) rfl rfl,
    readLine_mnemonic hl ht (by simp) rfl rfl, readLine_mnemonic hl ht (by simp) rfl rfl, fun _ => readLine_blanks hl ht⟩
  · obtain ⟨start, hash⟩ := (operandText_text htext).readLine_eq hl ht
    exact ⟨start, hash, rfl⟩
  · obtain ⟨start, hash⟩ := (operandText_hex msg).readLine_eq hl ht
    exact ⟨_, start, hash, message_hex_nibbles msg⟩
  · have spelt : SpellsCount count n := by
      obtain ⟨ds, hds, rfl, rfl⟩ | ⟨ds, hds, rfl, rfl⟩ | ⟨xs, ys, hxs, hys, rfl, rfl⟩ := hcount
      · exact .decimal ds hds
      · exact .hex ds hds
      · exact .power xs ys hxs hys
    obtain ⟨start, hash⟩ := (operandText_rep b spelt).readLine_eq hl ht
    exact ⟨start, hash, rfl⟩

end Sys2Proof.Machine
end

section
/-! PROOFS. The preprocessor's statements (40_preprocessor.md): the layout and the length of the padded message, and the PAD step. -/

namespace Sys2Proof.Machine

variable {msg : Message}

/-! ### The zero count and the length (R71, R73) -/

theorem zeroCount_lt (len : Nat) : zeroCount len < 64 := Nat.mod_lt _ (by decide)

/-- R71's formula over the integers, where the difference may be negative. -/
theorem zeroCount_intCast (len : Nat) : (zeroCount len : Int) = (55 - (len : Int)) % 64 := by
  rw [zeroCount]
  omega

/-- The block count is the least that leaves room for the mark byte and the length field. -/
theorem blockCount_le_iff {n : Nat} : blockCount msg ≤ n ↔ msg.length + 9 ≤ 64 * n := by
  rw [blockCount_eq]
  omega

/-- The mark byte and the length field cost a block of their own unless the last block of the message has room for them. -/
theorem blockCount_ne_ceil_iff : blockCount msg ≠ (msg.length + 63) / 64 ↔ 56 ≤ msg.length % 64 ∨ msg.length % 64 = 0 := by
  rw [blockCount_eq]
  omega

/-- Settles O22: the length is the block count times 64, and `blockCount_le_iff` makes that count least. -/
theorem paddedLengthIsLeastMultiple : Obligations.PaddedLengthIsLeastMultiple := by
  intro msg L
  have blocks := padMessage_length_eq_blocks msg
  have least (x : Nat) (hx : 64 ∣ x) (hle : L + 9 ≤ x) : (padMessage msg).length ≤ x := by
    obtain ⟨n, rfl⟩ := hx
    rw [blocks]
    exact Nat.mul_le_mul_left 64 (blockCount_le_iff.mpr hle)
  have length : ((padMessage msg).length : Int) = L + 9 + (55 - (L : Int)) % 64 := by
    rw [padMessage_length, ← zeroCount_intCast]
    rfl
  have positive : 1 ≤ blockCount msg := blockCount_eq msg ▸ Nat.le_add_left 1 _
  exact ⟨length, ⟨_, blocks⟩, blocks ▸ blockCount_le_iff.mp (Nat.le_refl _), least, blockCount_eq msg, blocks, positive,
    blockCount_ne_ceil_iff⟩

/-! ### The bytes of the padded message (R72, R74) -/

theorem padMessage_eq_append (msg : Message) :
    padMessage msg = msg ++ 0x80 :: (List.replicate (zeroCount msg.length) 0x00 ++ bytes64 (8 * msg.length)) := by
  simp [padMessage]

theorem getElem?_padMessage_of_lt {i : Nat} (hi : i < msg.length) : (padMessage msg)[i]? = msg[i]? := by
  rw [padMessage_eq_append, List.getElem?_append_left hi]

theorem getElem?_padMessage_length (msg : Message) : (padMessage msg)[msg.length]? = some 0x80 := by
  rw [padMessage_eq_append, List.getElem?_append_right (Nat.le_refl _), Nat.sub_self, List.getElem?_cons_zero]

theorem getElem?_padMessage_zeros {i : Nat} (hlo : msg.length + 1 ≤ i) (hhi : i < msg.length + 1 + zeroCount msg.length) :
    (padMessage msg)[i]? = some 0x00 := by
  obtain ⟨j, rfl⟩ := Nat.exists_eq_add_of_le hlo
  have hj : j < zeroCount msg.length := Nat.lt_of_add_lt_add_left hhi
  have place : msg.length + 1 + j - msg.length = j + 1 := by omega
  rw [padMessage_eq_append, List.getElem?_append_right (by omega), place, List.getElem?_cons_succ,
    List.getElem?_append_left (List.length_replicate.symm ▸ hj), List.getElem?_replicate_of_lt hj]

/-- The last 8 bytes are the length field. -/
theorem drop_padMessage (msg : Message) : (padMessage msg).drop ((padMessage msg).length - 8) = bytes64 (8 * msg.length) := by
  have before : (padMessage msg).length - 8 = (msg ++ [0x80] ++ List.replicate (zeroCount msg.length) 0x00).length := by
    rw [padMessage, List.length_append, bytes64_length, Nat.add_sub_cancel]
  rw [before, padMessage, List.drop_left]

/-- Settles O21: one lemma for each part of the message; the length field is exact because `8 L` is below `2 ^ 64`. -/
theorem paddedMessageLayout : Obligations.PaddedMessageLayout := by
  intro msg hl p L k
  have field : p.drop (p.length - 8) = bytes64 (8 * L) := drop_padMessage msg
  have zeros : zeroCount L < 64 := zeroCount_lt L
  have length : p.length = L + 9 + zeroCount L := padMessage_length msg
  have blocks : p.length = 64 * blockCount msg := padMessage_length_eq_blocks msg
  refine ⟨fun _ => getElem?_padMessage_of_lt, getElem?_padMessage_length msg, fun _ => getElem?_padMessage_zeros, ?_, field, ?_, ?_⟩
  · rw [field, bytes64_length]
  · rw [field, bytes64_foldl (by omega)]
  · omega

/-! ### The PAD step (R75) -/

/-- Settles O10: `exec_pad` names the next state, and its buffer, laid out from address 0, reads as the padded message. -/
theorem padBuildsTheBuffer : Obligations.PadBuildsTheBuffer := by
  intro s msg hp hM hl
  refine ⟨_, exec_pad hp hM hl, rfl, fun a => ?_, fun he => ⟨?_, ?_⟩⟩
  · exact Memory.read_ofBytes (padMessage msg) a
  · exact statusOf_congr (s' := { State.reset with phase := .start }) hp he
  · exact statusOf_congr (s' := { State.reset with phase := .padded }) rfl he

end Sys2Proof.Machine
end

section
/-! PROOFS. The schedule's statements (41_schedule.md): the small sigmas bit by bit, the EXPAND step, and the on-the-fly expander. -/

namespace Sys2Proof.Machine

/-! ### The small sigmas (R82, R83) -/

/-- A logical shift brings in zeros past the word's top bit. -/
theorem getLsbD_ushiftRight_word (x : Word) (n i : Nat) :
    (x >>> n).getLsbD i = (decide (i + n < 32) && x.getLsbD (i + n)) := by
  rw [BitVec.getLsbD_ushiftRight, Nat.add_comm n i]
  by_cases inside : i + n < 32
  · simp [inside]
  · simp [BitVec.getLsbD_of_ge x (i + n) (Nat.le_of_not_lt inside)]

theorem getLsbD_smallSigma0 (x : Word) {i : Nat} (hi : i < 32) :
    (smallSigma0 x).getLsbD i =
      ((x.getLsbD ((i + 7) % 32) ^^ x.getLsbD ((i + 18) % 32)) ^^ (decide (i + 3 < 32) && x.getLsbD (i + 3))) := by
  rw [smallSigma0, BitVec.getLsbD_xor, BitVec.getLsbD_xor, getLsbD_rotr x (by decide) hi, getLsbD_rotr x (by decide) hi,
    getLsbD_ushiftRight_word]

theorem getLsbD_smallSigma1 (x : Word) {i : Nat} (hi : i < 32) :
    (smallSigma1 x).getLsbD i =
      ((x.getLsbD ((i + 17) % 32) ^^ x.getLsbD ((i + 19) % 32)) ^^ (decide (i + 10 < 32) && x.getLsbD (i + 10))) := by
  rw [smallSigma1, BitVec.getLsbD_xor, BitVec.getLsbD_xor, getLsbD_rotr x (by decide) hi, getLsbD_rotr x (by decide) hi,
    getLsbD_ushiftRight_word]

/-- Settles O17: one lemma for each sigma; the spec's examples evaluate. -/
theorem smallSigmasBitByBit : Obligations.SmallSigmasBitByBit :=
  ⟨fun x _ hi => ⟨getLsbD_smallSigma0 x hi, getLsbD_smallSigma1 x hi⟩, by decide⟩

/-! ### The schedule's words (R81, R84) -/

section Words

variable (w : Vector Word 16) {k m t : Nat}

/-- The word that one more step adds. -/
theorem extendWords_succ_last (k : Nat) :
    (extendWords w (k + 1))[16 + k] =
      (extendWords w k)[k] + smallSigma0 (extendWords w k)[k + 1] + (extendWords w k)[k + 9] +
        smallSigma1 (extendWords w k)[k + 14] :=
  Vector.getElem_push_eq

theorem extendWords_succ_of_lt (ht : t < 16 + k) : (extendWords w (k + 1))[t] = (extendWords w k)[t] :=
  Vector.getElem_push_lt ht

theorem extendWords_of_le (hkm : k ≤ m) (ht : t < 16 + k) : (extendWords w m)[t] = (extendWords w k)[t] := by
  induction m, hkm using Nat.le_induction with
  | base => rfl
  | succ m hkm ih => rw [extendWords_succ_of_lt w (by omega), ih]

/-- Two schedules of the same 16 words agree wherever both have a word. -/
theorem extendWords_agree (hk : t < 16 + k) (hm : t < 16 + m) : (extendWords w k)[t] = (extendWords w m)[t] := by
  obtain hkm | hmk := Nat.le_total k m
  · exact (extendWords_of_le w hkm hk).symm
  · exact extendWords_of_le w hmk hm

/-- R84's recurrence, every word of it read in the finished schedule. -/
theorem extendWords_recurrence (hkm : k < m) :
    (extendWords w m)[16 + k] =
      (extendWords w m)[k] + smallSigma0 (extendWords w m)[k + 1] + (extendWords w m)[k + 9] +
        smallSigma1 (extendWords w m)[k + 14] := by
  have kept {t : Nat} (ht : t < 16 + k) := extendWords_of_le w (Nat.le_of_lt hkm) ht
  rw [extendWords_of_le w hkm (by omega), extendWords_succ_last, kept (t := k) (by omega), kept (t := k + 1) (by omega),
    kept (t := k + 9) (by omega), kept (t := k + 14) (by omega)]

end Words

section Block

variable (block : Vector Byte 64) {j t : Nat}

theorem expandBlock_getElem (ht : t < 64) : (expandBlock block)[t] = (extendWords (messageWords block) 48)[t] := by
  simp only [expandBlock_eq]

theorem expandBlock_getElem_of_lt (hj : j < 16) :
    (expandBlock block)[j] = be32 block[4 * j] block[4 * j + 1] block[4 * j + 2] block[4 * j + 3] := by
  rw [expandBlock_getElem, extendWords_low _ _ _ hj, messageWords, Vector.getElem_ofFn]

theorem expandBlock_recurrence (hlo : 16 ≤ t) (ht : t < 64) :
    (expandBlock block)[t] =
      (expandBlock block)[t - 16] + smallSigma0 (expandBlock block)[t - 15] + (expandBlock block)[t - 7] +
        smallSigma1 (expandBlock block)[t - 2] := by
  obtain ⟨k, rfl⟩ := Nat.exists_eq_add_of_le hlo
  have back16 : 16 + k - 16 = k := by omega
  have back15 : 16 + k - 15 = k + 1 := by omega
  have back7 : 16 + k - 7 = k + 9 := by omega
  have back2 : 16 + k - 2 = k + 14 := by omega
  simp only [expandBlock_getElem, extendWords_recurrence (messageWords block) (show k < 48 by omega), back16, back15, back7, back2]

end Block

/-! ### The EXPAND step (R85) -/

/-- Settles O11: `exec_expand` names the next state, and its schedule is the message words and the recurrence. -/
theorem expandComputesTheSchedule : Obligations.ExpandComputesTheSchedule := by
  intro s mp b n B hp hb hN hlt hM bytes
  have block : mp.readBytes (64 * b.toNat) 64 = some (Vector.ofFn fun j => B j.val) := by
    refine (Memory.readBytes_eq_some ..).mpr fun j hj => ?_
    rw [bytes j hj, Vector.getElem_ofFn]
  refine ⟨_, _, exec_expand hp hb hN hlt hM block, rfl, fun j hj => ?_, fun t hlo ht => expandBlock_recurrence _ hlo ht,
    fun he => ⟨?_, ?_⟩⟩
  · simp only [expandBlock_getElem_of_lt _ hj, Vector.getElem_ofFn]
  · exact statusOf_congr (s' := { State.reset with phase := .padded }) hp he
  · exact statusOf_congr (s' := { State.reset with phase := .expand }) rfl he

/-! ### The on-the-fly expander (R87) -/

/-- One shift moves every word of the window but the oldest down by one place. -/
theorem windowAt_succ_of_lt (block : Vector Byte 64) (t : Nat) {j : Nat} (hj : j < 15) :
    (windowAt block (t + 1))[j] = (windowAt block t)[j + 1] := by
  rw [windowAt, Vector.getElem_push_lt hj, Vector.getElem_eraseIdx_of_ge (by decide) (by omega) (by omega)]

/-- The word that one shift takes in. -/
theorem windowAt_succ_last (block : Vector Byte 64) (t : Nat) :
    (windowAt block (t + 1))[15] =
      (windowAt block t)[0] + smallSigma0 (windowAt block t)[1] + (windowAt block t)[9] + smallSigma1 (windowAt block t)[14] :=
  Vector.getElem_push_eq

/-- After `t` shifts the window is the last 16 words of the schedule extended `t` times. -/
theorem windowAt_getElem (block : Vector Byte 64) (t : Nat) {j : Nat} (hj : j < 16) :
    (windowAt block t)[j] = (extendWords (messageWords block) t)[t + j] := by
  induction t generalizing j with
  | zero => simp [windowAt, extendWords]
  | succ t ih =>
    obtain rfl | kept : j = 15 ∨ j < 15 := by omega
    · have place : t + 1 + 15 = 16 + t := by omega
      simp only [place, windowAt_succ_last, extendWords_succ_last, ih, Nat.add_zero]
    · have place : t + 1 + j = t + (j + 1) := by omega
      rw [windowAt_succ_of_lt block t kept, ih, ← extendWords_succ_of_lt _ (by omega)]
      simp only [place]

/-- Settles O48: the window's oldest word is word `t` of a schedule that agrees with EXPAND's. -/
theorem windowExpanderRefinesExpand : Obligations.WindowExpanderRefinesExpand := by
  intro block t ht
  rw [windowAt_getElem block t (by decide), expandBlock_getElem block ht]
  exact extendWords_agree _ (by omega) (by omega)

end Sys2Proof.Machine
end

section
/-! PROOFS. The compressor's statements (42_compressor.md): the round functions bit by bit, the read-only memories, the steps CINIT,
ROUND and CADD, and the block they compute. -/

namespace Sys2Proof.Machine

/-! ### The round functions (R91 to R94) -/

section RoundFunctions

variable (x y z : Word) {i : Nat}

theorem getLsbD_bigSigma0 (hi : i < 32) :
    (bigSigma0 x).getLsbD i =
      ((x.getLsbD ((i + 2) % 32) ^^ x.getLsbD ((i + 13) % 32)) ^^ x.getLsbD ((i + 22) % 32)) := by
  rw [bigSigma0, BitVec.getLsbD_xor, BitVec.getLsbD_xor, getLsbD_rotr x (by decide) hi, getLsbD_rotr x (by decide) hi,
    getLsbD_rotr x (by decide) hi]

theorem getLsbD_bigSigma1 (hi : i < 32) :
    (bigSigma1 x).getLsbD i =
      ((x.getLsbD ((i + 6) % 32) ^^ x.getLsbD ((i + 11) % 32)) ^^ x.getLsbD ((i + 25) % 32)) := by
  rw [bigSigma1, BitVec.getLsbD_xor, BitVec.getLsbD_xor, getLsbD_rotr x (by decide) hi, getLsbD_rotr x (by decide) hi,
    getLsbD_rotr x (by decide) hi]

/-- Of the two terms of Ch, the one the first operand's bit does not select is 0. -/
theorem getLsbD_choice (hi : i < 32) :
    (choice x y z).getLsbD i = if x.getLsbD i then y.getLsbD i else z.getLsbD i := by
  have negated : (~~~x).getLsbD i = !x.getLsbD i := by rw [BitVec.getLsbD_not, decide_eq_true hi, Bool.true_and]
  rw [choice, BitVec.getLsbD_xor, BitVec.getLsbD_and, BitVec.getLsbD_and, negated]
  cases x.getLsbD i <;> simp

/-- The three products of Maj are XORed: with two bits 1 one product is 1, with three bits 1 all three are. -/
theorem getLsbD_majority (i : Nat) :
    (majority x y z).getLsbD i = true ↔
      2 ≤ (x.getLsbD i).toNat + (y.getLsbD i).toNat + (z.getLsbD i).toNat := by
  have bits (a b c : Bool) : (((a && b) ^^ (a && c)) ^^ (b && c)) = true ↔ 2 ≤ a.toNat + b.toNat + c.toNat := by
    revert a b c
    decide
  simp only [majority, BitVec.getLsbD_xor, BitVec.getLsbD_and, bits]

end RoundFunctions

/-- Settles O18: one lemma for each function; the spec's examples evaluate. -/
theorem roundFunctionsBitByBit : Obligations.RoundFunctionsBitByBit :=
  ⟨fun x y z i hi => ⟨getLsbD_bigSigma0 x hi, getLsbD_bigSigma1 x hi, getLsbD_choice x y z hi, getLsbD_majority x y z i⟩, by decide⟩

/-! ### The read-only memories (R95, R96, R109, R110) -/

/-- The primes below 312, which are the first 64. -/
def firstPrimes : Vector Nat 64 :=
  #v[2, 3, 5, 7, 11, 13, 17, 19, 23, 29, 31, 37, 41, 43, 47, 53, 59, 61, 67, 71, 73, 79, 83, 89, 97, 101, 103, 107, 109, 113, 127, 131,
    137, 139, 149, 151, 157, 163, 167, 173, 179, 181, 191, 193, 197, 199, 211, 223, 227, 229, 233, 239, 241, 251, 257, 263, 269, 271,
    277, 281, 283, 293, 307, 311]

/-- Trial division leaves just these. -/
theorem filter_primes_eq_firstPrimes :
    ((List.range 312).filter fun p => decide (2 ≤ p ∧ ∀ d ∈ List.range p, 2 ≤ d → p % d ≠ 0)) = firstPrimes.toList := by
  decide +kernel

/-- The word `k` holds the first 32 fractional bits of the `n`-th root of `p`: after some integer part `q`, at most 6, they make the
integer `n`-th root of `p · 2 ^ (32 n)`. -/
def IsRootFraction (n p : Nat) (k : Word) : Prop :=
  ∃ q < 7, (q * 2 ^ 32 + k.toNat) ^ n ≤ p * 2 ^ (32 * n) ∧ p * 2 ^ (32 * n) < (q * 2 ^ 32 + k.toNat + 1) ^ n

/-- The fraction is what the integer root leaves modulo `2 ^ 32`. -/
theorem IsRootFraction.exists_root {n p : Nat} {k : Word} (h : IsRootFraction n p k) :
    ∃ c, c ^ n ≤ p * 2 ^ (32 * n) ∧ p * 2 ^ (32 * n) < (c + 1) ^ n ∧ k.toNat = c % 2 ^ 32 := by
  obtain ⟨q, -, below, above⟩ := h
  exact ⟨_, below, above, by omega⟩

theorem kRom_isRootFraction : ∀ t : Fin 64, IsRootFraction 3 firstPrimes[t] kRom[t] := by
  unfold IsRootFraction
  decide +kernel

theorem ivRom_isRootFraction : ∀ i : Fin 8, IsRootFraction 2 firstPrimes[i.val] ivRom[i] := by
  unfold IsRootFraction
  decide +kernel

theorem getElem?_firstPrimes {t : Nat} (ht : t < 64) : firstPrimes.toList[t]? = some firstPrimes[t] := by
  rw [Vector.getElem?_toList, Vector.getElem?_eq_getElem ht]

/-- Settles O20: the primes are `firstPrimes`, and each word of the two memories holds a root's fraction. -/
theorem romsHoldFractionalRoots : Obligations.RomsHoldFractionalRoots := by
  unfold Obligations.RomsHoldFractionalRoots
  rw [filter_primes_eq_firstPrimes]
  refine ⟨rfl, fun t ht => ?_, fun i hi => ?_⟩
  · obtain ⟨c, root⟩ := (kRom_isRootFraction ⟨t, ht⟩).exists_root
    exact ⟨c, _, getElem?_firstPrimes ht, root⟩
  · obtain ⟨c, root⟩ := (ivRom_isRootFraction ⟨i, hi⟩).exists_root
    exact ⟨c, _, getElem?_firstPrimes (by omega), root⟩

/-! ### The steps CINIT, ROUND and CADD (R99 to R101) -/

/-- A counter below another of its width does not wrap when it goes on by one. -/
theorem toNat_add_one_of_lt {v : Nat} {b n : BitVec v} (h : b < n) : (b + 1).toNat = b.toNat + 1 := by
  have below := BitVec.lt_def.mp h
  have fits : b.toNat + 1 < 2 ^ v := Nat.lt_of_le_of_lt below n.isLt
  have one : (1 : BitVec v).toNat = 1 := Nat.mod_eq_of_lt (Nat.lt_of_le_of_lt (Nat.le_add_left 1 _) fits)
  rw [BitVec.toNat_add, one, Nat.mod_eq_of_lt fits]

theorem addBack_eq (h : Vector Word 8) (r : Working) :
    addBack h r = #v[h[0] + r.a, h[1] + r.b, h[2] + r.c, h[3] + r.d, h[4] + r.e, h[5] + r.f, h[6] + r.g, h[7] + r.h] := by
  ext i hi
  rw [addBack, Vector.getElem_zipWith]
  match i, hi with
  | 0, _ | 1, _ | 2, _ | 3, _ | 4, _ | 5, _ | 6, _ | 7, _ => rfl

/-- Settles O12: `exec_cinit` names the next state. -/
theorem cinitLoadsTheWorkingRegisters : Obligations.CinitLoadsTheWorkingRegisters := by
  refine fun s h hp hH => ⟨_, exec_cinit hp hH, rfl, fun he => ⟨?_, ?_⟩⟩
  · exact statusOf_congr (s' := { State.reset with phase := .expand }) hp he
  · exact statusOf_congr (s' := { State.reset with phase := .compress }) rfl he

/-- Settles O13: `exec_round` names the next state, of the same phase and ERRCODE. -/
theorem roundUpdatesTheWorkingRegisters : Obligations.RoundUpdatesTheWorkingRegisters := by
  intro s t w r hlt hp ht hW hr
  have inRange : t < 64 := BitVec.lt_def.mpr hlt
  exact ⟨_, _, _, exec_round hp ht hr hW hlt, rfl, rfl, rfl, toNat_add_one_of_lt inRange, rfl⟩

/-- Settles O14: `exec_cadd` names the next state. -/
theorem caddFoldsIntoTheDigestState : Obligations.CaddFoldsIntoTheDigestState := by
  intro s r h b n hp ht hr hH hb _ hlt
  refine ⟨_, exec_cadd hp ht hr hH hb, toNat_add_one_of_lt hlt, by rw [addBack_eq], fun he => ⟨?_, ?_⟩⟩
  · exact statusOf_congr (s' := { State.reset with phase := .compress }) hp he
  · exact statusOf_congr (s' := { State.reset with phase := .padded }) rfl he

/-! ### The block (R98) -/

section Block

variable {s u : State} {h : Vector Word 8} {w : Vector Word 64} {b : BitVec 56}

/-- Where no event is listed the core moves (log 1). -/
theorem run_succ_of_silent {k : Nat} (h : coreTurn s = .next u) (he : s.events = []) :
    Sys2Proof.core.run (k + 1) s = Sys2Proof.core.run k u := by
  have moves : Sys2Proof.core.step s = .next u := by
    change nextEvent s = .next u
    rw [nextEvent, he]
    exact h
  simp only [Host.Core.run, moves]

/-- The state in a block's COMPRESS before round `k`. -/
def beforeRound (s : State) (h : Vector Word 8) (w : Vector Word 64) (k : Nat) (hk : k ≤ 64) : State :=
  { s with work := some (roundsUpTo w (Working.ofState h) k hk), t := some (BitVec.ofNat 7 k), phase := .compress }

/-- The state after a block's CADD. -/
def afterBlock (s : State) (h : Vector Word 8) (w : Vector Word 64) (b : BitVec 56) : State :=
  { s with H := some (compressBlock h w), blk := some (b + 1), W := none, work := none, t := none, phase := .padded }

theorem coreTurn_expand_eq_beforeRound (hp : s.phase = .expand) (hH : s.H = some h) :
    coreTurn s = .next (beforeRound s h w 0 (Nat.zero_le 64)) :=
  (coreTurn_expand hp).trans (exec_cinit hp hH)

theorem coreTurn_beforeRound_of_lt {k : Nat} (hW : s.W = some w) (hk : k < 64) :
    coreTurn (beforeRound s h w k (Nat.le_of_lt hk)) = .next (beforeRound s h w (k + 1) hk) := by
  have index : (BitVec.ofNat 7 k).toNat = k := Nat.mod_eq_of_lt (by omega)
  have hlt : BitVec.ofNat 7 k < 64 := BitVec.lt_def.mpr (by rwa [index])
  have round := exec_round (s := beforeRound s h w k (Nat.le_of_lt hk)) rfl rfl rfl hW (BitVec.lt_def.mp hlt)
  refine (coreTurn_compress_of_lt rfl rfl hlt).trans (round.trans ?_)
  simp only [beforeRound, index, roundsUpTo_succ, BitVec.ofNat_add]
  rfl

theorem coreTurn_beforeRound_last (hH : s.H = some h) (hb : s.blk = some b) :
    coreTurn (beforeRound s h w 64 (Nat.le_refl 64)) = .next (afterBlock s h w b) := by
  rw [afterBlock, compressBlock_eq]
  exact (coreTurn_compress_of_eq rfl rfl).trans (exec_cadd rfl rfl rfl hH hb)

/-- With `m` rounds to go, those rounds and CADD end the block. -/
theorem run_beforeRound (hH : s.H = some h) (hW : s.W = some w) (hb : s.blk = some b) (he : s.events = []) (m : Nat) {k : Nat}
    (hk : k + m = 64) : Sys2Proof.core.run (m + 1) (beforeRound s h w k (by omega)) = .next (afterBlock s h w b) := by
  induction m generalizing k with
  | zero =>
    obtain rfl : k = 64 := hk
    exact run_succ_of_silent (coreTurn_beforeRound_last hH hb) he
  | succ m ih =>
    have round := coreTurn_beforeRound_of_lt (h := h) hW (show k < 64 by omega)
    exact (run_succ_of_silent round he).trans (ih (by omega))

end Block

/-- Settles O47: CINIT leads to round 0, and `run_beforeRound` goes on from there. -/
theorem blockStepsComputeCompress : Obligations.BlockStepsComputeCompress := by
  intro s h w b n hp hH hW hb _ hlt he
  refine ⟨toNat_add_one_of_lt hlt, ?_⟩
  exact (run_succ_of_silent (coreTurn_expand_eq_beforeRound hp hH) he).trans (run_beforeRound hH hW hb he 64 rfl)

end Sys2Proof.Machine
end

section
/-! PROOFS. The accumulator's statements (43_accumulator.md): the FINALIZE step, the hash invariant, the step machine over every
interleaving, and the hash transaction of a host beside the core. -/

namespace Sys2Proof.Machine

variable {s u : State} {i : Instr} {msg : Message}

/-! ### The FINALIZE step (R113) -/

/-- Settles O15: `exec_finalize` names the next state. -/
theorem finalizeKeepsTheDigestState : Obligations.FinalizeKeepsTheDigestState := by
  refine fun s n hp hb hN => ⟨_, exec_finalize hp hb hN, rfl, rfl, fun he => ⟨?_, ?_⟩⟩
  · exact statusOf_congr (s' := { State.reset with phase := .padded }) hp he
  · exact statusOf_congr (s' := { State.reset with phase := .finalized }) rfl he

/-! ### The registers of a computation, phase by phase (R115, R117) -/

theorem Computing.length_le_msgCap (h : Computing msg s) : msg.length ≤ s.cfg.msgCap.val := h.1

theorem Computing.schedule_of_expand (h : Computing msg s) (hp : s.phase = .expand) :
    ∃ b w, AtBlock msg b s ∧ b.toNat < blockCount msg ∧ s.W = some w ∧ scheduleAt msg b.toNat = some w := by
  obtain ⟨-, h⟩ := h
  simp only [hp] at h
  obtain ⟨b, atBlock, hlt, some, hW⟩ := h
  obtain ⟨w, hw⟩ := Option.isSome_iff_exists.mp some
  exact ⟨b, w, atBlock, hlt, hw, hW.symm.trans hw⟩

theorem Computing.rounds_of_compress (h : Computing msg s) (hp : s.phase = .compress) :
    ∃ b t w, AtBlock msg b s ∧ b.toNat < blockCount msg ∧ s.W = some w ∧ scheduleAt msg b.toNat = some w ∧ s.t = some t ∧
      ∃ ht : t.toNat ≤ 64, s.work = some (roundsUpTo w (Working.ofState (stateAfter msg b.toNat)) t.toNat ht) := by
  obtain ⟨-, h⟩ := h
  simpa only [hp] using h

theorem Computing.H_of_finalized (h : Computing msg s) (hp : s.phase = .finalized) :
    s.H = some (stateAfter msg (blockCount msg)) := by
  obtain ⟨-, h⟩ := h
  simpa only [hp] using h

/-- A computation is under way, or it has ended in FINALIZED. -/
theorem Computing.busy_or_finalized (h : Computing msg s) : s.phase.busy = true ∨ s.phase = .finalized := by
  obtain ⟨-, h⟩ := h
  cases hp : s.phase with
  | start | padded | expand | compress => exact .inl rfl
  | finalized => exact .inr rfl
  | idle | error | reserved => simp [hp] at h

/-- The registers that `AtBlock` names hold one value each. -/
theorem AtBlock.unique {b c n : BitVec 56} (h : AtBlock msg b s) (hb : s.blk = some c) (hN : s.N = some n) :
    b = c ∧ n = BitVec.ofNat 56 (blockCount msg) := by
  obtain ⟨-, -, hN', hb', -⟩ := h
  exact ⟨Option.some.inj (hb'.symm.trans hb), Option.some.inj (hN.symm.trans hN')⟩

/-- One more block folded in: `compress` over its schedule is the next digest state (R115). -/
theorem stateAfter_succ_of_schedule {k : Nat} {w : Vector Word 64} (h : scheduleAt msg k = some w) :
    stateAfter msg (k + 1) = compressBlock (stateAfter msg k) w := by
  obtain ⟨block, hblock, rfl⟩ := Option.map_eq_some_iff.mp h
  exact stateAfter_succ hblock

/-- Every core step leads from the registers of a computation to those of its next point. -/
theorem Effect.computing (e : Effect s i u) (core : i.isHost = false) (h : Computing msg s) : Computing msg u := by
  have fits := h.length_le_msgCap
  cases e with
  | recorded => exact h
  | nop | reset | tooLarge | overCapacity | accepted | status | digest => cases core
  | padded m hp hM =>
    obtain rfl : m = msg := Option.some.inj (hM.symm.trans (h.M_of_start hp))
    exact ⟨fits, 0, ⟨hM, rfl, rfl, rfl, rfl⟩, Nat.zero_le _⟩
  | expanded c n mp block hp hb hN hlt hMp hr =>
    obtain ⟨b, atBlock, -⟩ := h.atBlock_of_padded hp
    obtain ⟨rfl, rfl⟩ := atBlock.unique hb hN
    have ⟨_, hMp', _⟩ := atBlock
    obtain rfl : mp = Memory.ofBytes (padMessage msg) := Option.some.inj (hMp.symm.trans hMp')
    have below : b.toNat < blockCount msg := by rwa [BitVec.lt_def, ofNat_blockCount_toNat h.length_le] at hlt
    have schedule : scheduleAt msg b.toNat = some (expandBlock block) := by rw [scheduleAt, blockAt_eq, hr]; rfl
    exact ⟨fits, b, atBlock, below, rfl, schedule.symm⟩
  | finalized n hp hb hN =>
    obtain ⟨b, atBlock, -⟩ := h.atBlock_of_padded hp
    obtain ⟨rfl, rfl⟩ := atBlock.unique hb hN
    obtain ⟨-, -, -, -, hH⟩ := atBlock
    rw [ofNat_blockCount_toNat h.length_le] at hH
    exact ⟨fits, hH⟩
  | loaded d hp hd =>
    obtain ⟨b, w, atBlock, below, hW, schedule⟩ := h.schedule_of_expand hp
    have ⟨_, _, _, _, hH⟩ := atBlock
    obtain rfl : d = stateAfter msg b.toNat := Option.some.inj (hd.symm.trans hH)
    exact ⟨fits, b, 0, w, atBlock, below, hW, schedule, rfl, Nat.zero_le 64, rfl⟩
  | rounded t r w hp ht hr hW hlt =>
    obtain ⟨b, t', w', atBlock, below, hW', schedule, ht', hle, hwork⟩ := h.rounds_of_compress hp
    obtain rfl : t' = t := Option.some.inj (ht'.symm.trans ht)
    obtain rfl : w' = w := Option.some.inj (hW'.symm.trans hW)
    obtain rfl := Option.some.inj (hr.symm.trans hwork)
    have next : (t' + 1).toNat = t'.toNat + 1 := toNat_add_one_of_lt (n := 64) hlt
    refine ⟨fits, ?_⟩
    simp only [hp]
    refine ⟨b, t' + 1, w', atBlock, below, hW, schedule, rfl, by omega, ?_⟩
    rw [roundsUpTo_congr _ _ next _ hlt, roundsUpTo_succ]
  | added r d c hp ht hr hd hb =>
    obtain ⟨b, t, w, ⟨hM, hMp, hN, hb', hH⟩, below, -, schedule, ht', hle, hwork⟩ := h.rounds_of_compress hp
    obtain rfl : t = 64 := Option.some.inj (ht'.symm.trans ht)
    obtain rfl : b = c := Option.some.inj (hb'.symm.trans hb)
    obtain rfl := Option.some.inj (hd.symm.trans hH)
    obtain rfl := Option.some.inj (hr.symm.trans hwork)
    have count := ofNat_blockCount_toNat h.length_le
    have next : (b + 1).toNat = b.toNat + 1 :=
      toNat_add_one_of_lt (n := BitVec.ofNat 56 (blockCount msg)) (by rwa [BitVec.lt_def, count])
    refine ⟨fits, b + 1, ⟨hM, hMp, hN, rfl, ?_⟩, by omega⟩
    rw [next, stateAfter_succ_of_schedule schedule, compressBlock_eq]
    rfl

/-! ### The hash invariant -/

/-- Every operation keeps the hash invariant: a command leaves the hardware state or enters IDLE, ERROR or START, and a core step
goes on with the computation. -/
theorem Effect.hashInv (e : Effect s i u) (h : HashInv s) : HashInv u := by
  refine ⟨e.phaseInv h.phaseInv, ?_⟩
  have goesOn (core : i.isHost = false) (busy : s.phase.busy = true) : ∃ msg, Computing msg u :=
    (h.computing busy).imp fun _ hc => e.computing core hc
  obtain ⟨-, standing⟩ := h
  cases e with
  | recorded | nop | overCapacity | status | digest => exact standing
  | reset => exact .inl rfl
  | tooLarge => exact .inr (.inl rfl)
  | accepted msg _ hc => exact .inr (.inr ⟨msg, hc, rfl⟩)
  | padded _ hp | expanded _ _ _ _ hp | finalized _ hp | loaded _ hp | rounded _ _ _ hp | added _ _ _ hp =>
    exact .inr (.inr (goesOn rfl (by rw [hp]; rfl)))

/-- Settles O41: taking an event and recording a fault leave the hardware state, and `Effect.hashInv` is the rest. -/
theorem hashInvariantIsKept : Obligations.HashInvariantIsKept :=
  fun _ _ hs h => step_preserves (fun _ _ hv => hv) (fun _ _ hv => hv) Effect.hashInv h hs

/-! ### The core's turn in a computation (R120, R159) -/

section StepsLeft

variable {b n : BitVec 56}

theorem stepsLeft_start (hp : s.phase = .start) (hM : s.M = some msg) : stepsLeft s = 2 + 67 * blockCount msg := by
  simp only [stepsLeft, hp, hM]

theorem stepsLeft_padded (hp : s.phase = .padded) (hN : s.N = some n) (hb : s.blk = some b) :
    stepsLeft s = 1 + 67 * (n.toNat - b.toNat) := by
  simp only [stepsLeft, hp, hN, hb]

theorem stepsLeft_expand (hp : s.phase = .expand) (hN : s.N = some n) (hb : s.blk = some b) :
    stepsLeft s = 67 * (n.toNat - b.toNat) := by
  simp only [stepsLeft, hp, hN, hb]

theorem stepsLeft_compress {t : BitVec 7} (hp : s.phase = .compress) (hN : s.N = some n) (hb : s.blk = some b) (ht : s.t = some t) :
    stepsLeft s = 67 * (n.toNat - b.toNat) - 1 - t.toNat := by
  simp only [stepsLeft, hp, hN, hb, ht]

theorem stepsLeft_finalized (hp : s.phase = .finalized) : stepsLeft s = 0 := by
  simp only [stepsLeft, hp]

end StepsLeft

/-- The block is busy as long as core steps are left. -/
theorem Computing.busy_iff (h : Computing msg s) : s.phase.busy = true ↔ 0 < stepsLeft s := by
  have count := ofNat_blockCount_toNat h.length_le
  obtain busy | hp := h.busy_or_finalized
  · refine iff_of_true busy ?_
    cases hp : s.phase with
    | start =>
      rw [stepsLeft_start hp (h.M_of_start hp)]
      omega
    | padded =>
      obtain ⟨b, ⟨-, -, hN, hb, -⟩, -⟩ := h.atBlock_of_padded hp
      rw [stepsLeft_padded hp hN hb]
      omega
    | expand =>
      obtain ⟨b, -, ⟨-, -, hN, hb, -⟩, below, -⟩ := h.schedule_of_expand hp
      rw [stepsLeft_expand hp hN hb]
      omega
    | compress =>
      obtain ⟨b, t, -, ⟨-, -, hN, hb, -⟩, below, -, -, ht, hle, -⟩ := h.rounds_of_compress hp
      rw [stepsLeft_compress hp hN hb ht]
      omega
    | idle | finalized | error | reserved => simp [hp, Phase.busy] at busy
  · simp [hp, Phase.busy, stepsLeft_finalized hp]

theorem Computing.finalized_of_stepsLeft (h : Computing msg s) (none_left : stepsLeft s = 0) : s.phase = .finalized :=
  h.busy_or_finalized.resolve_left fun busy => absurd (h.busy_iff.mp busy) (by omega)

/-- The two states have the same faults and the same refusal mark. -/
def SameMarks (s u : State) : Prop := u.faults = s.faults ∧ u.refused = s.refused

theorem SameMarks.refl (s : State) : SameMarks s s := ⟨rfl, rfl⟩

theorem SameMarks.trans {v : State} (h : SameMarks s u) (h' : SameMarks u v) : SameMarks s v :=
  ⟨h'.1.trans h.1, h'.2.trans h.2⟩

/-- `u` is one core step further in the computation of `SHA256(msg)` than `s`; nothing is recorded, and nothing given to the host. -/
structure Advanced (msg : Message) (s u : State) : Prop where
  computing : Computing msg u
  steps : stepsLeft u + 1 = stepsLeft s
  marks : SameMarks s u
  responses : u.responses = s.responses
  events : u.events = s.events

theorem Computing.advances_of_start (h : Computing msg s) (hp : s.phase = .start) :
    ∃ u, coreTurn s = .next u ∧ Advanced msg s u := by
  have count := ofNat_blockCount_toNat h.length_le
  have hM := h.M_of_start hp
  have pad := exec_pad hp hM h.length_le
  refine ⟨_, (coreTurn_start hp).trans pad, (exec_effect pad).computing rfl h, ?_, .refl s, rfl, rfl⟩
  rw [stepsLeft_padded rfl rfl rfl, stepsLeft_start hp hM, count, show (0 : BitVec 56).toNat = 0 from rfl]
  omega

/-- PADDED is where the core reads the buffer: EXPAND finds its block there, and FINALIZE follows the last one. -/
theorem Computing.advances_of_padded (h : Computing msg s) (hp : s.phase = .padded) :
    ∃ u, coreTurn s = .next u ∧ Advanced msg s u := by
  obtain ⟨b, ⟨-, hMp, hN, hb, -⟩, hle⟩ := h.atBlock_of_padded hp
  have count := ofNat_blockCount_toNat h.length_le
  obtain hlt | heq := Nat.lt_or_eq_of_le hle
  · have selected : b < BitVec.ofNat 56 (blockCount msg) := by rwa [BitVec.lt_def, count]
    obtain ⟨block, hr⟩ := readBytes_block hlt
    have expand := exec_expand hp hb hN selected hMp hr
    refine ⟨_, (coreTurn_padded_of_lt hp hb hN selected).trans expand, (exec_effect expand).computing rfl h, ?_, .refl s, rfl, rfl⟩
    rw [stepsLeft_expand (s := { s with W := _, phase := .expand }) rfl hN hb, stepsLeft_padded hp hN hb, Nat.add_comm]
  · obtain rfl : b = BitVec.ofNat 56 (blockCount msg) := BitVec.eq_of_toNat_eq (heq.trans count.symm)
    have finalize := exec_finalize hp hb hN
    refine ⟨_, (coreTurn_padded_of_eq hp hb hN).trans finalize, (exec_effect finalize).computing rfl h, ?_, .refl s, rfl, rfl⟩
    rw [stepsLeft_finalized rfl, stepsLeft_padded hp hN hb, Nat.sub_self]

theorem Computing.advances_of_expand (h : Computing msg s) (hp : s.phase = .expand) :
    ∃ u, coreTurn s = .next u ∧ Advanced msg s u := by
  obtain ⟨b, w, ⟨-, -, hN, hb, hH⟩, below, -⟩ := h.schedule_of_expand hp
  have count := ofNat_blockCount_toNat h.length_le
  have cinit := exec_cinit hp hH
  refine ⟨_, (coreTurn_expand hp).trans cinit, (exec_effect cinit).computing rfl h, ?_, .refl s, rfl, rfl⟩
  rw [stepsLeft_compress (s := { s with work := _, t := some 0, phase := .compress }) rfl hN hb rfl, stepsLeft_expand hp hN hb,
    show (0 : BitVec 7).toNat = 0 from rfl]
  omega

/-- In COMPRESS a round follows while `t < 64`, and CADD at 64, the bound of `t`. -/
theorem Computing.advances_of_compress (h : Computing msg s) (hp : s.phase = .compress) :
    ∃ u, coreTurn s = .next u ∧ Advanced msg s u := by
  obtain ⟨b, t, w, ⟨-, -, hN, hb, hH⟩, below, hW, -, ht, hle, hr⟩ := h.rounds_of_compress hp
  have count := ofNat_blockCount_toNat h.length_le
  by_cases hlt : t < 64
  · have round := exec_round hp ht hr hW hlt
    refine ⟨_, (coreTurn_compress_of_lt hp ht hlt).trans round, (exec_effect round).computing rfl h, ?_, .refl s, rfl, rfl⟩
    rw [stepsLeft_compress (s := { s with work := _, t := some (t + 1) }) hp hN hb rfl, stepsLeft_compress hp hN hb ht,
      toNat_add_one_of_lt hlt]
    omega
  · obtain rfl : t = 64 := by bv_omega
    have cadd := exec_cadd hp ht hr hH hb
    refine ⟨_, (coreTurn_compress_of_eq hp ht).trans cadd, (exec_effect cadd).computing rfl h, ?_, .refl s, rfl, rfl⟩
    have next : (b + 1).toNat = b.toNat + 1 :=
      toNat_add_one_of_lt (n := BitVec.ofNat 56 (blockCount msg)) (by rwa [BitVec.lt_def, count])
    rw [stepsLeft_padded (s := { s with H := _, blk := some (b + 1), W := none, work := none, t := none, phase := .padded }) rfl hN rfl,
      stepsLeft_compress hp hN hb ht, next, show (64 : BitVec 7).toNat = 64 from rfl]
    omega

/-- While the block is busy the core's turn takes one step of the computation. -/
theorem Computing.advances (h : Computing msg s) (busy : s.phase.busy = true) : ∃ u, coreTurn s = .next u ∧ Advanced msg s u := by
  cases hp : s.phase with
  | start => exact h.advances_of_start hp
  | padded => exact h.advances_of_padded hp
  | expand => exact h.advances_of_expand hp
  | compress => exact h.advances_of_compress hp
  | idle | finalized | error | reserved => simp [hp, Phase.busy] at busy

/-! ### Commands in a computation (R129) -/

/-- While the block is busy no command but RESET changes the hardware state. -/
theorem Effect.sameHardware_of_busy (e : Effect s i u) (host : i.isHost = true) (busy : s.phase.busy = true) (hr : i ≠ .reset) :
    SameHardware s u := by
  cases e with
  | recorded | nop | status | digest => simp [SameHardware]
  | reset => exact absurd rfl hr
  | tooLarge _ idle | overCapacity _ idle | accepted _ idle => exact absurd busy (by simp [idle])
  | padded | expanded | finalized | loaded | rounded | added => cases host

theorem Computing.of_sameHardware (h : Computing msg s) (same : SameHardware s u) (hc : u.cfg = s.cfg) : Computing msg u := by
  obtain ⟨hp, -, hM, hMp, hN, hb, ht, hH, hW, hr⟩ := same
  simpa only [Computing, AtBlock, hp, hM, hMp, hN, hb, ht, hH, hW, hr, hc] using h

theorem stepsLeft_of_sameHardware (same : SameHardware s u) : stepsLeft u = stepsLeft s := by
  obtain ⟨hp, -, hM, -, hN, hb, ht, -⟩ := same
  simp only [stepsLeft, hp, hM, hN, hb, ht]

/-! ### The step machine over every interleaving (R117) -/

theorem NoReset.take {es : List Event} (h : NoReset es) (k : Nat) : NoReset (es.take k) :=
  fun bytes hb => h bytes (List.mem_of_mem_take hb)

theorem run_succ_of_step {k : Nat} (h : step s = .next u) : Sys2Proof.core.run (k + 1) s = Sys2Proof.core.run k u := by
  have moves : Sys2Proof.core.step s = .next u := h
  simp only [Host.Core.run, moves]

/-- The core's turn at the head of the list is one step of the computation. -/
theorem Computing.step_of_core_event {rest : List Event} (h : Computing msg s) (busy : s.phase.busy = true)
    (he : s.events = .core :: rest) :
    ∃ u, step s = .next u ∧ Computing msg u ∧ stepsLeft u + 1 = stepsLeft s ∧ u.events = rest := by
  obtain ⟨u, turn, adv⟩ := Computing.advances (s := { s with events := rest }) h busy
  exact ⟨u, by simpa only [step, nextEvent, he] using turn, adv.computing, adv.steps, adv.events⟩

/-- A command but RESET at the head of the list leaves a busy computation where it is. -/
theorem Computing.step_of_host_event {bytes : List Byte} {rest : List Event} (h : Computing msg s) (busy : s.phase.busy = true)
    (he : s.events = .host bytes :: rest) (hd : decode bytes = .ok i) (hr : i ≠ .reset) :
    ∃ u, step s = .next u ∧ Computing msg u ∧ stepsLeft u = stepsLeft s ∧ u.events = rest := by
  obtain ⟨-, host, -⟩ := encode_of_decode hd
  obtain ⟨u, hu⟩ := exec_host_answers { s with events := rest } host
  have e := exec_effect hu
  have same := e.sameHardware_of_busy host busy hr
  exact ⟨u, (Machine.step_of_host_event he hd).trans hu, Computing.of_sameHardware h same e.cfg_eq, stepsLeft_of_sameHardware same,
    e.events_eq⟩

/-- Over events with fewer core turns than steps left, the computation goes on by exactly those turns; a longer run goes on from
there. -/
theorem Computing.run_events {es rest : List Event} (h : Computing msg s) (he : s.events = es ++ rest) (hn : NoReset es)
    (hc : coreTurns es < stepsLeft s) :
    ∃ u, (∀ k, Sys2Proof.core.run (es.length + k) s = Sys2Proof.core.run k u) ∧ Computing msg u ∧
      stepsLeft u + coreTurns es = stepsLeft s ∧ u.events = rest := by
  induction es generalizing s with
  | nil => exact ⟨s, fun k => by rw [List.length_nil, Nat.zero_add], h, rfl, he⟩
  | cons e es ih =>
    have busy := h.busy_iff.mpr (Nat.zero_lt_of_lt hc)
    have hn' : NoReset es := fun bytes hb => hn bytes (List.mem_cons_of_mem e hb)
    have head : ∃ v, step s = .next v ∧ Computing msg v ∧ stepsLeft v + coreTurns [e] = stepsLeft s ∧ v.events = es ++ rest := by
      cases e with
      | core => exact h.step_of_core_event busy he
      | host bytes =>
        obtain ⟨i, hd, hr⟩ := hn bytes List.mem_cons_self
        exact h.step_of_host_event busy he hd hr
    have turns : coreTurns (e :: es) = coreTurns [e] + coreTurns es := List.countP_append (l₁ := [e])
    obtain ⟨v, step, computing, steps, events⟩ := head
    obtain ⟨u, run, computing, left, events⟩ := ih computing events hn' (by omega)
    refine ⟨u, fun k => ?_, computing, by omega, events⟩
    rw [List.length_cons, Nat.add_right_comm, run_succ_of_step step, run]

theorem Computing.sha256_eq (h : Computing msg s) : sha256 msg = some (digestBytes (stateAfter msg (blockCount msg))) :=
  if_pos h.length_le

theorem Computing.exec_readDigest (h : Computing msg s) (hp : s.phase = .finalized) :
    exec .readDigest s = .next (s.respond (.digest (digestBytes (stateAfter msg (blockCount msg))))) := by
  apply exec_of_replyTo
  simp [replyTo, hp, h.H_of_finalized hp]

/-- Settles O46: the events before the last are one turn too few, so the block is busy up to there, and the last one ends the
computation. -/
theorem stepMachineComputesSha256 : Obligations.StepMachineComputesSha256 := by
  intro s msg es hp hM hl he hn hc
  have start : Computing msg s := ⟨hl, by rw [hp]; exact hM⟩
  have steps := stepsLeft_start hp hM
  refine ⟨fun k hk => ?_, ?_⟩
  · have le : coreTurns (es.take k) ≤ coreTurns es := (List.take_sublist k es).countP_le
    have split : s.events = es.take k ++ (es.drop k ++ [.core]) := by rw [he, ← List.append_assoc, List.take_append_drop]
    obtain ⟨v, run, computing, left, -⟩ := start.run_events split (hn.take k) (by omega)
    rw [List.length_take_of_le hk] at run
    exact ⟨v, run 0, computing.busy_iff.mpr (by omega)⟩
  · obtain ⟨v, run, computing, left, events⟩ := start.run_events he hn (by omega)
    obtain ⟨u, step, computing, last, -⟩ := computing.step_of_core_event (computing.busy_iff.mpr (by omega)) events
    have finalized := computing.finalized_of_stepsLeft (by omega)
    exact ⟨u, _, (run 1).trans (run_succ_of_step step), finalized, computing.H_of_finalized finalized, computing.sha256_eq,
      computing.exec_readDigest finalized⟩

/-! ### The host's moves in HASH (R67, R128) -/

theorem exec_start_accepts (idle : s.phase.busy = false) (hl : msg.length ≤ s.cfg.msgCap.val) :
    exec (.start msg) s = .next (s.accept msg) := by
  have cap := s.cfg.msgCap.isLt
  simp [exec, execStart, idle, show ¬lmax < msg.length by omega, show ¬s.cfg.msgCap.val < msg.length by omega]

/-- An accepted START begins the computation. -/
theorem computing_accept (hl : msg.length ≤ s.cfg.msgCap.val) : Computing msg (s.accept msg) := ⟨hl, rfl⟩

theorem exec_start_raises (idle : s.phase.busy = false) (hl : lmax < msg.length) :
    exec (.start msg) s = .next (s.raiseInputTooLarge msg.length) := by
  simp [exec, execStart, idle, hl]

theorem busy_eq_false_of_waiting (hp : s.phase = .idle ∨ s.phase = .finalized ∨ s.phase = .error) : s.phase.busy = false := by
  obtain hp | hp | hp := hp <;> rw [hp] <;> rfl

section Moves

variable {rest : List HostAction} {reports : List HostReport}

theorem hostMove_start (h : exec (.start msg) s = .next u) :
    hostMove s ⟨.send (0x02 :: msg) :: rest, reports⟩ = .next (u, ⟨rest, reports⟩) :=
  hostMove_send (h := ⟨_, reports⟩) rfl (decode_start msg) h

theorem hostMove_poll (s : State) : hostMove s ⟨.poll :: rest, reports⟩ = .next (s.respond (.status (statusOf s)), ⟨rest, reports⟩) :=
  hostMove_send (h := ⟨_, reports⟩) (i := .readStatus) rfl rfl rfl

theorem hostMove_repoll_of_busy (busy : statusBusy (lastStatus s.responses) = true) :
    hostMove s ⟨.repoll :: rest, reports⟩ = .next (s.respond (.status (statusOf s)), ⟨.repoll :: rest, reports⟩) :=
  hostMove_send (h := ⟨_, reports⟩) (i := .readStatus) (hostNext_repoll_of_busy busy) rfl rfl

/-- Where the STATUS the host was last given is that of a FINALIZED state, it reads the digest. -/
theorem hostMove_collect_of_finalized (hp : s.phase = .finalized) (hs : lastStatus s.responses = statusOf s)
    (h : exec .readDigest s = .next u) : hostMove s ⟨[.repoll, .collect], reports⟩ = .next (u, ⟨[], reports⟩) := by
  obtain ⟨busy, done, -⟩ := statusOf_bits s
  rw [← hs, hp] at busy done
  exact hostMove_send (h := ⟨_, reports⟩) ((hostNext_repoll_of_free busy).trans (hostNext_collect_of_done done)) rfl h

/-- Where the STATUS the host was last given is that of an ERROR state, it reports the failure. -/
theorem hostMove_collect_of_error (hp : s.phase = .error) (hs : lastStatus s.responses = statusOf s) :
    hostMove s ⟨[.repoll, .collect], reports⟩ = .next (s, ⟨[], reports ++ [.inputValidationFailure]⟩) := by
  obtain ⟨busy, done, err⟩ := statusOf_bits s
  rw [← hs, hp] at busy done err
  exact hostMove_report (h := ⟨_, reports⟩) ((hostNext_repoll_of_free busy).trans (hostNext_collect_of_err done err))

theorem hostMove_finished (s : State) : hostMove s ⟨[], reports⟩ = .next (s, ⟨[], reports⟩) := rfl

end Moves

section Runs

variable {h h' : HostRun} {turns : List Turn}

theorem hostRun_core (hu : coreTurn s = .next u) : hostRun (.core :: turns) s h = hostRun turns u h := by
  simp only [hostRun, hu]

theorem hostRun_host (hu : hostMove s h = .next (u, h')) : hostRun (.host :: turns) s h = hostRun turns u h' := by
  simp only [hostRun, hu]

/-- As many core turns as steps are left end the computation in FINALIZED. -/
theorem Computing.hostRun_stepsLeft {n : Nat} (hc : Computing msg s) (hn : stepsLeft s = n) :
    ∃ u, hostRun (List.replicate n .core ++ turns) s h = hostRun turns u h ∧ Computing msg u ∧ u.phase = .finalized := by
  induction n generalizing s with
  | zero => exact ⟨s, rfl, hc, hc.finalized_of_stepsLeft hn⟩
  | succ n ih =>
    obtain ⟨v, turn, adv⟩ := hc.advances (hc.busy_iff.mpr (by omega))
    have left := adv.steps
    obtain ⟨u, run, ended⟩ := ih adv.computing (by omega)
    exact ⟨u, (hostRun_core turn).trans run, ended⟩

end Runs

/-- What the line HASH expands to, for an operand that denotes `msg`. -/
abbrev hashActions (msg : Message) : List HostAction := [.send (0x02 :: msg), .poll, .repoll, .collect]

/-- The host at the beginning of HASH. -/
theorem ofLines_hash (op : StartOperand) : HostRun.ofLines [.hash op] = ⟨hashActions op.message, []⟩ := rfl

/-! ### HASH of a message of at most MSG_CAP bytes -/

/-- Where a host in HASH and the block beside it stand, from START to the digest. After a poll the last STATUS is busy, or it is that of
the FINALIZED state the block is in. -/
inductive Hashing (msg : Message) : State → HostRun → Prop where
  | toStart {s : State} (hp : s.phase = .idle ∨ s.phase = .finalized ∨ s.phase = .error) (hl : msg.length ≤ s.cfg.msgCap.val) :
      Hashing msg s ⟨hashActions msg, []⟩
  | toPoll {s : State} (hc : Computing msg s) : Hashing msg s ⟨[.poll, .repoll, .collect], []⟩
  | polled {s : State} (hc : Computing msg s)
      (hs : statusBusy (lastStatus s.responses) = true ∨ s.phase = .finalized ∧ lastStatus s.responses = statusOf s) :
      Hashing msg s ⟨[.repoll, .collect], []⟩
  | collected {s : State} {d : Vector Byte 32} (hc : Computing msg s) (hd : sha256 msg = some d)
      (hr : s.responses.getLast? = some (.digest d)) : Hashing msg s ⟨[], []⟩

theorem Hashing.polled_of_respond (hc : Computing msg s) : Hashing msg (s.respond (.status (statusOf s))) ⟨[.repoll, .collect], []⟩ := by
  have last : lastStatus (s.respond (.status (statusOf s))).responses = statusOf s := lastStatus_append_status _ _
  obtain ⟨busyBit, -, -⟩ := statusOf_bits s
  refine .polled hc (hc.busy_or_finalized.imp (fun busy => ?_) fun hp => ⟨hp, last⟩)
  rw [last, busyBit, busy]

/-- The core's turn takes a step of the computation or waits, and leaves the host where it stands. -/
theorem Hashing.core {h : HostRun} (k : Hashing msg s h) : ∃ u, coreTurn s = .next u ∧ Hashing msg u h ∧ SameMarks s u := by
  by_cases waiting : s.phase = .idle ∨ s.phase = .finalized ∨ s.phase = .error
  · exact ⟨s, coreTurn_waits waiting, k, .refl s⟩
  have busy_of (hc : Computing msg s) : s.phase.busy = true :=
    hc.busy_or_finalized.resolve_right fun hp => waiting (.inr (.inl hp))
  cases k with
  | toStart hp => exact absurd hp waiting
  | toPoll hc =>
    obtain ⟨u, turn, adv⟩ := hc.advances (busy_of hc)
    exact ⟨u, turn, .toPoll adv.computing, adv.marks⟩
  | polled hc hs =>
    obtain ⟨u, turn, adv⟩ := hc.advances (busy_of hc)
    have busyBit := hs.resolve_right fun ⟨hp, _⟩ => waiting (.inr (.inl hp))
    exact ⟨u, turn, .polled adv.computing (.inl (by rwa [adv.responses])), adv.marks⟩
  | collected hc hd hr =>
    obtain ⟨u, turn, adv⟩ := hc.advances (busy_of hc)
    exact ⟨u, turn, .collected adv.computing hd (by rwa [adv.responses]), adv.marks⟩

/-- The host's move sends the next command of HASH, or changes nothing where it has finished. -/
theorem Hashing.host {h : HostRun} (k : Hashing msg s h) :
    ∃ u h', hostMove s h = .next (u, h') ∧ Hashing msg u h' ∧ SameMarks s u := by
  cases k with
  | toStart hp hl =>
    exact ⟨_, _, hostMove_start (exec_start_accepts (busy_eq_false_of_waiting hp) hl), .toPoll (computing_accept hl), .refl s⟩
  | toPoll hc => exact ⟨_, _, hostMove_poll s, .polled_of_respond hc, .refl s⟩
  | polled hc hs =>
    obtain busy | ⟨hp, hs⟩ := hs
    · exact ⟨_, _, hostMove_repoll_of_busy busy, .polled_of_respond hc, .refl s⟩
    · exact ⟨_, _, hostMove_collect_of_finalized hp hs (hc.exec_readDigest hp), .collected hc hc.sha256_eq (by simp), .refl s⟩
  | collected hc hd hr => exact ⟨_, _, hostMove_finished s, .collected hc hd hr, .refl s⟩

/-- Where the host has finished it has been given the digest. -/
theorem Hashing.digest_of_finished {h : HostRun} (k : Hashing msg s h) (hf : h.todo = []) :
    ∃ d, sha256 msg = some d ∧ s.responses.getLast? = some (.digest d) := by
  cases k with
  | collected _ hd hr => exact ⟨_, hd, hr⟩
  | _ => cases hf

theorem Hashing.reports_eq {h : HostRun} (k : Hashing msg s h) : h.reports = [] := by
  cases k <;> rfl

/-- HASH in any order of turns stays on its course. -/
theorem Hashing.run_stays {h : HostRun} (k : Hashing msg s h) (turns : List Turn) :
    ∃ u h', hostRun turns s h = .next (u, h') ∧ Hashing msg u h' ∧ SameMarks s u := by
  refine hostRun_keeps (Keeps := fun u h' => Hashing msg u h' ∧ SameMarks s u) ?_ ?_ turns s h ⟨k, .refl s⟩
  · rintro v h ⟨k, marks⟩
    obtain ⟨u, turn, k', marks'⟩ := k.core
    exact ⟨u, turn, k', marks.trans marks'⟩
  · rintro v h ⟨k, marks⟩
    obtain ⟨u, h', move, k', marks'⟩ := k.host
    exact ⟨u, h', move, k', marks.trans marks'⟩

/-- With the steps of the computation between START and the poll, HASH finishes in three turns of the host. -/
theorem hostRun_hash_finishes (hp : s.phase = .idle ∨ s.phase = .finalized ∨ s.phase = .error) (hl : msg.length ≤ s.cfg.msgCap.val) :
    ∃ u, hostRun (.host :: List.replicate (2 + 67 * blockCount msg) .core ++ [.host, .host]) s ⟨hashActions msg, []⟩ =
      .next (u, ⟨[], []⟩) := by
  have start := exec_start_accepts (busy_eq_false_of_waiting hp) hl
  obtain ⟨v, run, computing, finalized⟩ := (computing_accept hl).hostRun_stepsLeft (stepsLeft_start rfl rfl)
  have collect := hostMove_collect_of_finalized (s := v.respond (.status (statusOf v))) (reports := []) finalized
    (lastStatus_append_status _ _) (Computing.exec_readDigest computing finalized)
  exact ⟨_, (hostRun_host (hostMove_start start)).trans (run.trans ((hostRun_host (hostMove_poll v)).trans (hostRun_host collect)))⟩

/-! ### HASH of a message of 2^61 bytes or more -/

/-- The host has been given no digest between the two states. -/
def NoNewDigest (s u : State) : Prop := ∀ d, Response.digest d ∈ u.responses → Response.digest d ∈ s.responses

/-- Where a host in HASH of a message too large and the block beside it stand, from START to the report. After START the block waits in
ERROR, so the STATUS the host has polled is that of the state. -/
inductive Failing (msg : Message) : State → HostRun → Prop where
  | toStart {s : State} (hp : s.phase = .idle ∨ s.phase = .finalized ∨ s.phase = .error) (hl : lmax < msg.length) :
      Failing msg s ⟨hashActions msg, []⟩
  | toPoll {s : State} (hp : s.phase = .error) : Failing msg s ⟨[.poll, .repoll, .collect], []⟩
  | polled {s : State} (hp : s.phase = .error) (hs : lastStatus s.responses = statusOf s) : Failing msg s ⟨[.repoll, .collect], []⟩
  | reported {s : State} (hp : s.phase = .error) : Failing msg s ⟨[], [.inputValidationFailure]⟩

/-- No computation begins, so the core waits at each of its turns. -/
theorem Failing.core {h : HostRun} (k : Failing msg s h) : coreTurn s = .next s := by
  cases k with
  | toStart hp => exact coreTurn_waits hp
  | toPoll hp | polled hp | reported hp => exact coreTurn_waits (.inr (.inr hp))

theorem Failing.host {h : HostRun} (k : Failing msg s h) :
    ∃ u h', hostMove s h = .next (u, h') ∧ Failing msg u h' ∧ SameMarks s u ∧ NoNewDigest s u := by
  have status : NoNewDigest s (s.respond (.status (statusOf s))) := fun d hd => by simpa using hd
  cases k with
  | toStart hp hl =>
    exact ⟨_, _, hostMove_start (exec_start_raises (busy_eq_false_of_waiting hp) hl), .toPoll rfl, .refl s, fun _ hd => hd⟩
  | toPoll hp => exact ⟨_, _, hostMove_poll s, .polled hp (lastStatus_append_status _ _), .refl s, status⟩
  | polled hp hs => exact ⟨_, _, hostMove_collect_of_error hp hs, .reported hp, .refl s, fun _ hd => hd⟩
  | reported hp => exact ⟨_, _, hostMove_finished s, .reported hp, .refl s, fun _ hd => hd⟩

/-- Where the host has finished it has reported the failure, in ERROR. -/
theorem Failing.reported_of_finished {h : HostRun} (k : Failing msg s h) (hf : h.todo = []) :
    h.reports = [.inputValidationFailure] ∧ s.phase = .error := by
  cases k with
  | reported hp => exact ⟨rfl, hp⟩
  | _ => cases hf

theorem Failing.run_stays {h : HostRun} (k : Failing msg s h) (turns : List Turn) :
    ∃ u h', hostRun turns s h = .next (u, h') ∧ Failing msg u h' ∧ SameMarks s u ∧ NoNewDigest s u := by
  refine hostRun_keeps (Keeps := fun u h' => Failing msg u h' ∧ SameMarks s u ∧ NoNewDigest s u) ?_ ?_ turns s h
    ⟨k, .refl s, fun _ hd => hd⟩
  · rintro v h ⟨k, kept⟩
    exact ⟨v, k.core, k, kept⟩
  · rintro v h ⟨k, marks, digests⟩
    obtain ⟨u, h', move, k', marks', digests'⟩ := k.host
    exact ⟨u, h', move, k', marks.trans marks', fun d hd => digests d (digests' d hd)⟩

/-- Three turns of the host are START, the poll and the report. -/
theorem hostRun_hash_reports (hp : s.phase = .idle ∨ s.phase = .finalized ∨ s.phase = .error) (hl : lmax < msg.length) :
    ∃ u, hostRun [.host, .host, .host] s ⟨hashActions msg, []⟩ = .next (u, ⟨[], [.inputValidationFailure]⟩) := by
  obtain ⟨e, start, error⟩ : ∃ e, exec (.start msg) s = .next e ∧ e.phase = .error :=
    ⟨_, exec_start_raises (busy_eq_false_of_waiting hp) hl, rfl⟩
  have report := hostMove_collect_of_error (s := e.respond (.status (statusOf e))) (reports := []) error
    (lastStatus_append_status _ _)
  exact ⟨_, (hostRun_host (hostMove_start start)).trans ((hostRun_host (hostMove_poll e)).trans (hostRun_host report))⟩

/-- Settles O56: both courses of HASH, `Hashing` and `Failing`, hold at its beginning and at every turn. -/
theorem hashTransactionReturnsTheDigest : Obligations.HashTransactionReturnsTheDigest := by
  intro s op hp
  rw [ofLines_hash]
  refine ⟨fun hl => ⟨fun turns => ?_, hostRun_hash_finishes hp hl⟩, fun hl => ?_⟩
  · obtain ⟨u, h, run, k, faults, refused⟩ := (Hashing.toStart hp hl).run_stays turns
    exact ⟨u, h, run, k.reports_eq, faults, refused, k.digest_of_finished⟩
  · have tooLarge : lmax < op.message.length := Nat.lt_of_lt_of_le (by decide) hl
    refine ⟨fun turns => ?_, hostRun_hash_reports hp tooLarge⟩
    obtain ⟨u, h, run, k, ⟨faults, refused⟩, digests⟩ := (Failing.toStart hp tooLarge).run_stays turns
    exact ⟨u, h, run, faults, refused, digests, k.reported_of_finished⟩

end Sys2Proof.Machine
end

section
/-! PROOFS. The host interface's statements (44_host_interface.md): the host commands, which core step is enabled, the progress of a
computation, and the runs that never end well. -/

namespace Sys2Proof.Machine

variable {s u : State} {i : Instr} {msg : Message}

/-! ### NOP, RESET and the reserved commands (R122, R123, R127) -/

/-- Settles O1: `exec_nop` says it. -/
theorem nopChangesNothing : Obligations.NopChangesNothing := exec_nop

/-- Settles O2: the next state is `State.toIdle`, and in IDLE the core waits. -/
theorem resetDiscardsTheComputation : Obligations.ResetDiscardsTheComputation :=
  fun s => ⟨s.toIdle, exec_reset s, rfl, statusOf_congr (s' := State.reset) rfl rfl, coreTurn_waits (.inl rfl)⟩

@[simp] theorem exec_reserved (cmd : Byte) (s : State) : exec (.reserved cmd) s = .next (s.record (.reservedCmd cmd)) := rfl

/-- Settles O9: `exec_reserved` says it; a fault recorded is `State.record`. -/
theorem reservedCommandRecordsFault : Obligations.ReservedCommandRecordsFault := exec_reserved

/-! ### START (R124) -/

theorem Phase.busy_iff {p : Phase} : p.busy = true ↔ p = .start ∨ p = .padded ∨ p = .expand ∨ p = .compress := by
  simp [Phase.busy, or_assoc]

theorem exec_start_busy (busy : s.phase.busy = true) : exec (.start msg) s = .next (s.record (.startBusy s.phase)) := by
  simp [exec, execStart, busy]

theorem exec_start_refuses (idle : s.phase.busy = false) (hl : msg.length ≤ lmax) (hc : s.cfg.msgCap.val < msg.length) :
    exec (.start msg) s = .next (s.refuseCapacity msg.length) := by
  simp [exec, execStart, idle, Nat.not_lt.mpr hl, hc]

/-- Settles O4: one lemma for each of the four outcomes; the phase and ERRCODE that two of them leave fix STATUS. -/
theorem startChecksInOrder : Obligations.StartChecksInOrder := by
  intro msg s
  rw [← Phase.busy_iff, Bool.not_eq_true]
  exact ⟨exec_start_busy,
    fun idle hl => ⟨_, exec_start_raises idle hl, rfl,
      statusOf_congr (s' := { State.reset with phase := .error, errcode := 1 }) rfl rfl⟩,
    exec_start_refuses,
    fun idle hl => ⟨_, exec_start_accepts idle hl, rfl,
      statusOf_congr (s' := { State.reset with phase := .start }) rfl rfl⟩⟩

/-! ### READ_STATUS and READ_DIGEST (R125, R126, R42) -/

/-- The two fields of STATUS that are wider than a bit (R58). -/
theorem statusOf_fields (s : State) : (statusOf s).extractLsb' 0 3 = s.phase.code ∧ (statusOf s).extractLsb' 6 2 = s.errcode := by
  have key : ∀ (p : Phase) (e : BitVec 2),
      let status := statusOf { State.reset with phase := p, errcode := e }
      status.extractLsb' 0 3 = p.code ∧ status.extractLsb' 6 2 = e := by
    intro p
    cases p <;> decide
  exact key s.phase s.errcode

/-- Settles O5: `statusOf_fields` for the wide fields and `statusOf_bits` for the three bits. -/
theorem readStatusRespondsWithTheFields : Obligations.ReadStatusRespondsWithTheFields := by
  intro s
  obtain ⟨code, errcode⟩ := statusOf_fields s
  obtain ⟨busy, done, err⟩ := statusOf_bits s
  have busyBit : s.phase.busy = decide (s.phase = .start ∨ s.phase = .padded ∨ s.phase = .expand ∨ s.phase = .compress) :=
    Bool.eq_iff_iff.mpr (Phase.busy_iff.trans decide_eq_true_iff.symm)
  exact ⟨statusOf s, exec_readStatus s, code, busy.trans busyBit, done, err, errcode⟩

theorem getElem_bytes32 (w : Word) {k : Nat} (hk : k < 4) : (bytes32 w)[k] = w.extractLsb' (24 - 8 * k) 8 := by
  obtain rfl | rfl | rfl | rfl : k = 0 ∨ k = 1 ∨ k = 2 ∨ k = 3 := by omega
  all_goals rfl

/-- Byte `4 i + k` of a digest is byte `k` of word `i` (R42). -/
theorem getElem_digestBytes (h : Vector Word 8) {n k : Nat} (hn : n < 8) (hk : k < 4) :
    (digestBytes h)[4 * n + k] = (bytes32 h[n])[k] := by
  simp [digestBytes, show (4 * n + k) / 4 = n by omega, show (4 * n + k) % 4 = k by omega]

theorem exec_readDigest {h : Vector Word 8} (hp : s.phase = .finalized) (hH : s.H = some h) :
    exec .readDigest s = .next (s.respond (.digest (digestBytes h))) :=
  exec_of_replyTo (by simp [replyTo, hp, hH])

theorem exec_readDigest_notReady (hp : s.phase ≠ .finalized) : exec .readDigest s = .next (s.record (.digestNotReady s.phase)) := by
  simp [exec, execReadDigest, hp]

/-- Settles O7: one lemma for each outcome, and `getElem_digestBytes` for the bytes. -/
theorem readDigestOnlyWhenFinalized : Obligations.ReadDigestOnlyWhenFinalized :=
  fun _ => ⟨fun h hp hH => ⟨digestBytes h, exec_readDigest hp hH, fun i _ hi hk =>
    (getElem_digestBytes h hi hk).trans (getElem_bytes32 h[i] hk)⟩, exec_readDigest_notReady⟩

/-! ### The two agents' turns (R119, R121, R129) -/

/-- Settles O33: both cases are the core's turn, and where the list is empty there is no event to take. -/
theorem stepGivesTheCoreItsTurn : Obligations.StepGivesTheCoreItsTurn := by
  rintro s rest (he | ⟨he, rfl⟩)
  · simp only [step, nextEvent, he]
  · have untouched : { s with events := [] } = s := by rw [← he]
    rw [untouched]
    simp only [step, nextEvent, he]

/-- Settles O37: a command answers from every state, and in a busy phase only RESET changes the hardware state. -/
theorem onlyResetDisturbsAComputation : Obligations.OnlyResetDisturbsAComputation := by
  intro i s busy host hr
  obtain ⟨u, hu⟩ := exec_host_answers s host
  exact ⟨u, hu, (exec_effect hu).sameHardware_of_busy host busy hr⟩

/-- Settles O45: `Computing.advances` takes the step, and in a computation busy means that steps are left. -/
theorem eachCoreStepCountsDown : Obligations.EachCoreStepCountsDown := by
  intro s msg computing busy
  obtain ⟨u, turn, advanced⟩ := computing.advances busy
  have ended : u.phase.busy = false ↔ stepsLeft u = 0 := by
    rw [← Bool.not_eq_true, advanced.computing.busy_iff, Nat.pos_iff_ne_zero, not_not]
  exact ⟨fun hp => stepsLeft_start hp (computing.M_of_start hp), u, turn, advanced.steps, ended⟩

/-! ### Which core steps are enabled (R120) -/

/-- The operation does not stop outside its guard. -/
abbrev Enabled (i : Instr) (s : State) : Prop := exec i s ≠ .fault .stepNotEnabled

theorem guarded_ne_notEnabled {p : Prop} [Decidable p] {k : Host.Outcome State Fault Refusal} :
    guarded (decide p) k ≠ .fault .stepNotEnabled ↔ p ∧ k ≠ .fault .stepNotEnabled := by
  by_cases hp : p <;> simp [hp]

/-- Reading a register that holds none records a fault, which is a next state. -/
theorem reading_ne_notEnabled {α : Type} {r : Option α} {k : α → Host.Outcome State Fault Refusal} :
    reading r s k ≠ .fault .stepNotEnabled ↔ ∀ v, r = some v → k v ≠ .fault .stepNotEnabled := by
  cases r <;> simp

/-! Each step's guard, where a register that holds none is no obstacle. -/

theorem enabled_pad_iff : Enabled .pad s ↔ s.phase = .start := by
  simp only [Enabled, exec, execPad, guarded_ne_notEnabled, reading_ne_notEnabled, and_iff_left_iff_imp]
  intro _ msg _
  split_ifs <;> simp

theorem enabled_expand_iff :
    Enabled .expand s ↔ s.phase = .padded ∧ ∀ b, s.blk = some b → ∀ n, s.N = some n → b < n := by
  simp only [Enabled, exec, execExpand, guarded_ne_notEnabled, reading_ne_notEnabled]
  refine and_congr_right fun _ => forall₄_congr fun b _ n _ => and_iff_left fun mp _ => ?_
  split <;> simp

theorem enabled_finalize_iff :
    Enabled .finalize s ↔ s.phase = .padded ∧ ∀ b, s.blk = some b → ∀ n, s.N = some n → b = n := by
  simp [Enabled, exec, execFinalize, guarded_ne_notEnabled, reading_ne_notEnabled]

theorem enabled_cinit_iff : Enabled .cinit s ↔ s.phase = .expand := by
  simp [Enabled, exec, execCinit, guarded_ne_notEnabled, reading_ne_notEnabled]

theorem enabled_round_iff : Enabled .round s ↔ s.phase = .compress ∧ ∀ t, s.t = some t → t < 64 := by
  simp only [Enabled, exec, execRound, guarded_ne_notEnabled, reading_ne_notEnabled]
  refine and_congr_right fun _ => forall₂_congr fun t _ => ?_
  by_cases hlt : t.toNat < 64
  · simp [hlt, reading_ne_notEnabled, BitVec.lt_def]
  · simp [hlt, BitVec.lt_def]

theorem enabled_cadd_iff : Enabled .cadd s ↔ s.phase = .compress ∧ ∀ t, s.t = some t → t = 64 := by
  simp [Enabled, exec, execCadd, guarded_ne_notEnabled, reading_ne_notEnabled]

theorem PhaseInv.counters_of_padded (h : PhaseInv s) (hp : s.phase = .padded) : ∃ b n, s.blk = some b ∧ s.N = some n ∧ b ≤ n := by
  obtain ⟨-, -, hN, hb, -⟩ := h.row_matches (congrArg Phase.row hp)
  obtain ⟨n, hN⟩ := Option.isSome_iff_exists.mp hN
  obtain ⟨b, hb⟩ := Option.isSome_iff_exists.mp hb
  exact ⟨b, n, hb, hN, h.blk_le hp hb hN⟩

theorem PhaseInv.t_of_compress (h : PhaseInv s) (hp : s.phase = .compress) : ∃ t, s.t = some t ∧ t ≤ 64 := by
  obtain ⟨-, -, -, -, -, -, -, ht, -⟩ := h.row_matches (congrArg Phase.row hp)
  obtain ⟨t, ht⟩ := Option.isSome_iff_exists.mp ht
  exact ⟨t, ht, h.t_le t ht⟩

/-- Under the phase invariant an enabled core step is the one that the micro-operation map selects (R65). -/
theorem PhaseInv.selectStep_of_enabled (h : PhaseInv s) (core : i.isHost = false) (enabled : Enabled i s) :
    selectStep s = .step i := by
  cases i with
  | nop | reset | start | readStatus | readDigest | reserved => cases core
  | pad => simp [selectStep, enabled_pad_iff.mp enabled]
  | cinit => simp [selectStep, enabled_cinit_iff.mp enabled]
  | expand =>
    obtain ⟨hp, below⟩ := enabled_expand_iff.mp enabled
    obtain ⟨b, n, hb, hN, -⟩ := h.counters_of_padded hp
    simp [selectStep, hp, hb, hN, below b hb n hN]
  | finalize =>
    obtain ⟨hp, last⟩ := enabled_finalize_iff.mp enabled
    obtain ⟨b, n, hb, hN, -⟩ := h.counters_of_padded hp
    simp [selectStep, hp, hb, hN, last b hb n hN]
  | round =>
    obtain ⟨hp, below⟩ := enabled_round_iff.mp enabled
    obtain ⟨t, ht, -⟩ := h.t_of_compress hp
    simp only [selectStep, hp, ht, if_pos (below t ht)]
  | cadd =>
    obtain ⟨hp, last⟩ := enabled_cadd_iff.mp enabled
    obtain ⟨t, ht, -⟩ := h.t_of_compress hp
    simp [selectStep, hp, ht, last t ht]

theorem busy_of_selectStep (h : selectStep s = .step i) : s.phase.busy = true := by
  cases hp : s.phase with
  | start | padded | expand | compress => rfl
  | idle | finalized | error | reserved => simp [selectStep, hp] at h

/-- In each busy phase a core step is enabled: the bounds on the counters leave no gap between the guards. -/
theorem PhaseInv.exists_enabled (h : PhaseInv s) (busy : s.phase.busy = true) : ∃ i, i.isHost = false ∧ Enabled i s := by
  obtain hp | hp | hp | hp := Phase.busy_iff.mp busy
  · exact ⟨.pad, rfl, enabled_pad_iff.mpr hp⟩
  · obtain ⟨b, n, hb, hN, hle⟩ := h.counters_of_padded hp
    by_cases heq : b = n
    · exact ⟨.finalize, rfl, enabled_finalize_iff.mpr ⟨hp, by simpa [hb, hN] using heq⟩⟩
    · have hlt : b < n := by bv_omega
      exact ⟨.expand, rfl, enabled_expand_iff.mpr ⟨hp, by simpa [hb, hN] using hlt⟩⟩
  · exact ⟨.cinit, rfl, enabled_cinit_iff.mpr hp⟩
  · obtain ⟨t, ht, hle⟩ := h.t_of_compress hp
    by_cases heq : t = 64
    · exact ⟨.cadd, rfl, enabled_cadd_iff.mpr ⟨hp, by simpa [ht] using heq⟩⟩
    · have hlt : t < 64 := by bv_omega
      exact ⟨.round, rfl, enabled_round_iff.mpr ⟨hp, by simpa [ht] using hlt⟩⟩

/-- Settles O36: the map selects one step, so no second is enabled, and none is where the phase is not busy. -/
theorem exactlyOneCoreStepWhileBusy : Obligations.ExactlyOneCoreStepWhileBusy := by
  intro s h
  refine ⟨fun busy => ?_, fun idle j core => ?_⟩
  · obtain ⟨i, core, enabled⟩ := h.exists_enabled busy
    have selected := h.selectStep_of_enabled core enabled
    exact ⟨i, core, enabled, fun j core' enabled' =>
      Selection.step.inj ((h.selectStep_of_enabled core' enabled').symm.trans selected)⟩
  · by_contra enabled
    have busy := busy_of_selectStep (h.selectStep_of_enabled core enabled)
    simp [idle] at busy

/-! ### Runs that never end well (R130, R140) -/

/-- If a run of one step or more answers `u`, its first step answers a state from which the rest does. -/
theorem run_succ_next {k : Nat} (h : Sys2Proof.core.run (k + 1) s = .next u) :
    ∃ v, step s = .next v ∧ Sys2Proof.core.run k v = .next u := by
  simp only [Host.Core.run] at h
  split at h
  · next v hv => exact ⟨v, hv, h⟩
  · cases h
  · cases h

theorem run_keepsBookkeeping (n : Nat) (h : Sys2Proof.core.run n s = .next u) : KeepsBookkeeping s u := by
  induction n generalizing s with
  | zero =>
    obtain rfl : s = u := Host.Outcome.next.inj h
    exact .refl s
  | succ k ih =>
    obtain ⟨v, first, rest⟩ := run_succ_next h
    exact (step_keepsBookkeeping first).trans (ih rest)

/-- A good ending has nothing recorded, so neither has any state before it. -/
theorem KeepsBookkeeping.not_goodEnding (h : KeepsBookkeeping s u) (recorded : s.faults ≠ [] ∨ s.refused = true) : ¬GoodEnding u := by
  rintro ⟨-, faultless, unrefused⟩
  obtain ⟨faults, refused⟩ := h
  obtain faulty | mark := recorded
  · obtain ⟨f, hf⟩ := List.exists_mem_of_ne_nil _ faulty
    simpa [faultless] using faults f hf
  · simpa [unrefused] using refused mark

/-- Settles O49: a run keeps what is recorded, and where a computation has ended the core waits. -/
theorem faultedRunsNeverEndWell : Obligations.FaultedRunsNeverEndWell :=
  ⟨fun n _ _ run => (run_keepsBookkeeping n run).not_goodEnding, fun _ ended => coreTurn_waits (.inr ended)⟩

end Sys2Proof.Machine
end

section
/-! PROOFS. The exceptions' statements (60_exceptions.md): the error InputTooLarge and the ways out of it, the capacity refusal, and what
a model fault leaves as it was. -/

namespace Sys2Proof.Machine

variable {s u : State} {i : Instr}

/-! ### InputTooLarge (R135) -/

/-- LMAX is the last length below `2^61`. -/
theorem lmax_lt_iff {n : Nat} : lmax < n ↔ 2 ^ 61 ≤ n := by
  unfold lmax
  omega

theorem statusOf_raiseInputTooLarge (s : State) (len : Nat) : statusOf (s.raiseInputTooLarge len) = 0x66 :=
  statusOf_congr (s' := { State.reset with phase := .error, errcode := 1 }) rfl rfl

/-- A START longer than LMAX is the only way into ERROR. -/
theorem Effect.start_of_enters_error (e : Effect s i u) (entered : u.phase = .error) (outside : s.phase ≠ .error) :
    ∃ msg, i = .start msg ∧ lmax < msg.length ∧ s.phase.busy = false := by
  cases e with
  | tooLarge msg idle long => exact ⟨msg, rfl, long, idle⟩
  | reset | accepted | padded | expanded | finalized | loaded | added => cases entered
  | recorded | nop | overCapacity | status | digest | rounded => exact absurd entered outside

/-- Settles O24: the next state is `State.raiseInputTooLarge`, where the core waits, and no other effect enters ERROR. -/
theorem onlyStartRaisesInputTooLarge : Obligations.OnlyStartRaisesInputTooLarge := by
  refine ⟨fun msg s idle long => ⟨by omega, s.raiseInputTooLarge msg.length, exec_start_raises idle (lmax_lt_iff.mpr long), ?_⟩,
    fun i s u h entered outside => ?_⟩
  · have waits : coreTurn (s.raiseInputTooLarge msg.length) = .next (s.raiseInputTooLarge msg.length) :=
      coreTurn_waits (.inr (.inr rfl))
    simp [statusOf_raiseInputTooLarge, waits]
  · obtain ⟨msg, start, long, idle⟩ := (exec_effect h).start_of_enters_error entered outside
    exact ⟨msg, start, lmax_lt_iff.mp long, idle⟩

/-! ### The capacity refusal (R142) -/

/-- The mark is set only where MSG_CAP is below LMAX, by a length between the two. -/
theorem Effect.refused_eq_or_msgCap_lt (e : Effect s i u) : u.refused = s.refused ∨ s.cfg.msgCap.val < lmax := by
  cases e with
  | overCapacity msg _ legal exceeds => exact .inr (exceeds.trans_le legal)
  | _ => exact .inl rfl

/-- Settles O25: the next state is `State.refuseCapacity`; no MSG_CAP equal to LMAX is below it. -/
theorem capacityRefusalSetsTheMark : Obligations.CapacityRefusalSetsTheMark :=
  ⟨fun _ s idle exceeds legal => ⟨_, exec_start_refuses idle legal exceeds, rfl, by simp [SameHardware]⟩,
    fun _ _ _ full h => (exec_effect h).refused_eq_or_msgCap_lt.resolve_right full.not_lt⟩

/-! ### The ways out of ERROR (R137) -/

/-- An operation that leaves ERROR is RESET or an accepted START: each core step has another phase as its guard. -/
theorem Effect.reset_or_start_of_leaves_error (e : Effect s i u) (hs : s.phase = .error) (left : u.phase ≠ .error) :
    i = .reset ∧ u.phase = .idle ∨ ∃ msg, i = .start msg ∧ u.phase = .start := by
  cases e with
  | reset => exact .inl ⟨rfl, rfl⟩
  | accepted msg => exact .inr ⟨msg, rfl, rfl⟩
  | tooLarge => exact absurd rfl left
  | recorded | nop | overCapacity | status | digest | rounded => exact absurd hs left
  | padded _ hp | expanded _ _ _ _ hp | finalized _ hp | loaded _ hp | added _ _ _ hp => simp [hs] at hp

/-- Settles O26: the core waits in ERROR, so a step that leaves it runs a command, and of these only two leave it. -/
theorem errorIsLeftByResetOrStart : Obligations.ErrorIsLeftByResetOrStart := by
  intro s hp
  have waiting : s.phase = .idle ∨ s.phase = .finalized ∨ s.phase = .error := .inr (.inr hp)
  refine ⟨coreTurn_waits waiting, ⟨_, exec_reset s, rfl⟩,
    fun msg hl => ⟨_, exec_start_accepts (busy_eq_false_of_waiting waiting) hl, rfl⟩, fun u h left => ?_⟩
  obtain ⟨rest, -, turn⟩ | ⟨bytes, rest, i, he, hd, hexec⟩ := step_next h
  · have waits : coreTurn { s with events := rest } = .next { s with events := rest } := coreTurn_waits waiting
    obtain rfl : { s with events := rest } = u := Host.Outcome.next.inj (waits.symm.trans turn)
    exact absurd hp left
  · exact ⟨bytes, rest, i, he, hd, (exec_effect hexec).reset_or_start_of_leaves_error hp left⟩

/-! ### What a model fault leaves as it was (R141) -/

theorem Effect.eq_record_of_faults_ne (e : Effect s i u) (changed : u.faults ≠ s.faults) : ∃ f, u = s.record f := by
  cases e with
  | recorded _ f => exact ⟨f, rfl⟩
  | _ => exact absurd rfl changed

theorem coreTurn_eq_record_of_faults_ne (h : coreTurn s = .next u) (changed : u.faults ≠ s.faults) : ∃ f, u = s.record f := by
  obtain ⟨-, rfl⟩ | ⟨-, same⟩ | ⟨-, same⟩ | ⟨i, -, -, hexec⟩ := coreTurn_next h
  · exact absurd rfl changed
  · exact ⟨.phaseReserved, same⟩
  · exact ⟨.noValue, same⟩
  · exact (exec_effect hexec).eq_record_of_faults_ne changed

/-- Recording a fault writes `faults` alone, which STATUS does not show. -/
theorem only_faults_of_eq_record (h : ∃ f, u = s.record f) : u = { s with faults := u.faults } ∧ statusOf u = statusOf s := by
  obtain ⟨f, rfl⟩ := h
  exact ⟨rfl, statusOf_congr rfl rfl⟩

/-- Settles O29: a command or the core's turn that changes the faults does nothing but record one. -/
theorem faultsChangeNothingElse : Obligations.FaultsChangeNothingElse :=
  ⟨fun _ _ _ h changed => only_faults_of_eq_record ((exec_effect h).eq_record_of_faults_ne changed),
    fun _ _ h changed => only_faults_of_eq_record (coreTurn_eq_record_of_faults_ne h changed)⟩

end Sys2Proof.Machine
end

section
/-! PROOFS. The reset's statement (70_reset_and_hazards.md): power-on reset and RESET leave the same hardware state. -/

namespace Sys2Proof.Machine

/-- RESET writes the phase, ERRCODE and all eight data registers, so nothing of `s` is left in the hardware state. -/
theorem sameHardware_toIdle_reset (s : State) : SameHardware s.toIdle State.reset := by
  simp [SameHardware, State.reset]

/-- Settles O3: the state at power-on evaluates, and RESET's next state is `State.toIdle`. -/
theorem powerOnEqualsReset : Obligations.PowerOnEqualsReset := by
  refine ⟨rfl, rfl, rfl, rfl, rfl, rfl, rfl, rfl, rfl, rfl, rfl, rfl, rfl, fun s u h => ?_⟩
  obtain rfl : s.toIdle = u := by simpa using h
  exact sameHardware_toIdle_reset s

end Sys2Proof.Machine
end

section
/-! PROOFS. The statements of the model's own choices (notes/assumptions/4 to 7 and 11): the named stops, the refusal of bytes that are
no command, and the canonical form of the message buffer. -/

namespace Sys2Proof.Machine

variable {s u : State} {i : Instr}

/-! ### The named stops (logs 4, 5, 6 and 11) -/

/-- Outside its guard a core step is not enabled, so it answers the stop that `Enabled` denies. -/
theorem exec_eq_stepNotEnabled {guard : Prop} (enabled_iff : Enabled i s ↔ guard) (h : ¬guard) :
    exec i s = .fault .stepNotEnabled :=
  not_not.mp (mt enabled_iff.mp h)

theorem coreTurn_padded_of_gt {b n : BitVec 56} (hp : s.phase = .padded) (hb : s.blk = some b) (hn : s.N = some n) (hgt : n < b) :
    coreTurn s = .fault .sequencerStuck := by
  simp [coreTurn, selectStep, hp, hb, hn, BitVec.not_lt.mpr (BitVec.le_of_lt hgt), (BitVec.ne_of_lt hgt).symm]

theorem coreTurn_compress_of_gt {t : BitVec 7} (hp : s.phase = .compress) (ht : s.t = some t) (hgt : 64 < t) :
    coreTurn s = .fault .sequencerStuck := by
  simp only [coreTurn, selectStep, hp, ht, if_neg (BitVec.not_lt.mpr (BitVec.le_of_lt hgt)), if_neg (BitVec.ne_of_lt hgt).symm]

/-- A MemRead answers only where every byte exists (R12). -/
theorem Memory.readBytes_eq_none {m : Memory} {addr n j : Nat} (hj : j < n) (missing : m.read (addr + j) = none) :
    m.readBytes addr n = none := by
  refine Option.eq_none_iff_forall_ne_some.mpr fun v hv => ?_
  have present := (m.readBytes_eq_some addr n v).mp hv j hj
  simp [missing] at present

theorem exec_expand_memRange {b n : BitVec 56} {mp : Memory} (hp : s.phase = .padded) (hb : s.blk = some b) (hn : s.N = some n)
    (hlt : b < n) (hM : s.Mp = some mp) (hr : mp.readBytes (64 * b.toNat) 64 = none) : exec .expand s = .fault .memRange := by
  simp [exec, execExpand, hp, hb, hn, hlt, hM, hr]

theorem exec_pad_padDomain {msg : Message} (hp : s.phase = .start) (hM : s.M = some msg) (hl : lmax < msg.length) :
    exec .pad s = .fault .padDomain := by
  simp [exec, execPad, hp, hM, Nat.not_le.mpr hl]

/-- Settles O31: each core step stops outside the guard that its `enabled_…_iff` states, the map has no row for counters past their
bounds, and EXPAND and PAD have one stop of their own each. -/
theorem namedStops : Obligations.NamedStops := by
  refine fun s => ⟨exec_eq_stepNotEnabled enabled_pad_iff,
    fun hp => ⟨exec_eq_stepNotEnabled enabled_expand_iff (hp ·.1), exec_eq_stepNotEnabled enabled_finalize_iff (hp ·.1)⟩,
    fun b n hp hb hn => ⟨fun hle => ?_, fun hne => ?_, coreTurn_padded_of_gt hp hb hn, fun mp j hlt hM hj missing => ?_⟩,
    exec_eq_stepNotEnabled enabled_cinit_iff,
    fun hp => ⟨exec_eq_stepNotEnabled enabled_round_iff (hp ·.1), exec_eq_stepNotEnabled enabled_cadd_iff (hp ·.1)⟩,
    fun t hp ht => ⟨fun hle => ?_, fun hne => ?_, coreTurn_compress_of_gt hp ht⟩,
    fun _ hp hM hl => exec_pad_padDomain hp hM (lmax_lt_iff.mpr hl)⟩
  · exact exec_eq_stepNotEnabled enabled_expand_iff fun ⟨_, below⟩ => BitVec.not_lt.mpr hle (below b hb n hn)
  · exact exec_eq_stepNotEnabled enabled_finalize_iff fun ⟨_, last⟩ => hne (last b hb n hn)
  · exact exec_expand_memRange hp hb hn hlt hM (Memory.readBytes_eq_none hj missing)
  · exact exec_eq_stepNotEnabled enabled_round_iff fun ⟨_, below⟩ => BitVec.not_lt.mpr hle (below t ht)
  · exact exec_eq_stepNotEnabled enabled_cadd_iff fun ⟨_, last⟩ => hne (last t ht)

/-! ### Bytes that are no command (log 7) -/

theorem step_of_decode_error {bytes : List Byte} {rest : List Event} {why : DecodeError} (he : s.events = .host bytes :: rest)
    (hd : decode bytes = .error why) : step s = .refused (.undecodable why) := by
  simp only [step, nextEvent, he, hostTurn, hd]

theorem decode_unexpectedPayload {cmd : Byte} (b : Byte) (more : List Byte) (hc : cmd ≠ 0x02) :
    decode (cmd :: b :: more) = .error (.unexpectedPayload cmd) :=
  if_neg hc

/-- Settles O35: the host's turn refuses with the decoder's own reason. -/
theorem undecodableBytesAreRefused : Obligations.UndecodableBytesAreRefused :=
  fun _ _ => ⟨fun he => step_of_decode_error he rfl,
    fun _ b more hc he => step_of_decode_error he (decode_unexpectedPayload b more hc)⟩

/-! ### The form of the message buffer (log 5) -/

/-- PAD alone makes a buffer, in canonical form; every other effect keeps the buffer or empties it. -/
theorem Effect.memoryInv (e : Effect s i u) (h : MemoryInv s) : MemoryInv u := by
  cases e with
  | padded msg =>
    intro m hm
    obtain rfl : Memory.ofBytes (padMessage msg) = m := Option.some.inj hm
    exact Memory.ofBytes_wf _
  | reset | tooLarge | accepted | finalized => exact fun _ hm => nomatch hm
  | recorded | nop | overCapacity | status | digest | expanded | loaded | rounded | added => exact h

/-- Settles O42: taking an event and recording a fault leave the buffer, and `Effect.memoryInv` is the rest. -/
theorem memoryFormIsKept : Obligations.MemoryFormIsKept :=
  fun _ _ hs h => step_preserves (fun _ _ hv => hv) (fun _ _ hv => hv) Effect.memoryInv h hs

end Sys2Proof.Machine
end
